-- ==== Sys2Proof/Word.lean ====
section
/-! DEFINITION. The widths the block's fields have (spec/00_scope.md R8): bytes, and the 16-bit and
32-bit unsigned integers of its packets and of its operation port. -/

namespace Sys2Proof

/-- A byte (R8). -/
abbrev Byte := BitVec 8

/-- A 16-bit unsigned integer: a length field (R92, R101). -/
abbrev Word16 := BitVec 16

/-- A 32-bit unsigned integer: a checksum, an address, a size, a sequence number (R92, R101). -/
abbrev Word32 := BitVec 32

end Sys2Proof
end

