-- ==== Sys2Proof/Config.lean ====
section
/-! DEFINITION. What an implementation fixes (spec/00_scope.md R5), and the free values of the
environment's draws (spec/40_byte_source.md R131). -/

namespace Sys2Proof

/-- The byte order of 32-bit words inside a request payload (R5, `PAYLOAD_WORD_ORDER`). -/
inductive WordOrder where
  | be
  | le
deriving DecidableEq, Repr

/-- `FRAME_CAP` (R5): the capacity of the deframer's frame buffer, both delimiters included. -/
def frameCap : Nat := 128

/-- The implementation parameters of R5. `FRAME_CAP` alone is fixed by the source. -/
structure Params where
  /-- `RX_CAP`: capacity of the circular receive buffer in bytes. -/
  rxCap : Nat
  /-- `NQ_DEPTH`: capacity of the notification queue in tokens. -/
  nqDepth : Nat
  /-- `CHK_SEED`: the checksum seed. -/
  chkSeed : Word32
  /-- `SYNC_MARKER`: the four bytes that open the SYNC payload. -/
  syncMarker : List Byte
  /-- `FLASH_BLOCK_SIZE`: the protocol's transfer unit. -/
  flashBlockSize : Nat
  /-- `PAYLOAD_WORD_ORDER`. -/
  wordOrder : WordOrder
  /-- `DATA_PAD`: zero bytes between the FLASH_DATA prefix words and the block. -/
  dataPad : Nat
  /-- `FEND_LEN`: the FLASH_END payload's length. -/
  fendLen : Nat
  /-- `FEND_ARG`: the word of a 4-byte FLASH_END payload. -/
  fendArg : Word32
  /-- `STATUS_OFFSET`: index of the status byte in a response packet. -/
  statusOffset : Nat
  /-- `VALUE_OFFSET`: index of the READ_REG value in a response packet. -/
  valueOffset : Nat
deriving DecidableEq, Repr

/-- The ranges and constraints R5 puts on the parameters. -/
abbrev Params.valid (p : Params) : Prop :=
  2 ≤ p.rxCap ∧ 1 ≤ p.nqDepth ∧ p.syncMarker.length = 4 ∧
    1 ≤ p.flashBlockSize ∧ p.flashBlockSize + 8 + p.dataPad ≤ 65535 ∧
    (p.fendLen = 0 ∨ p.fendLen = 4) ∧
    2 ≤ p.statusOffset ∧ 2 ≤ p.valueOffset ∧ p.valueOffset + 4 ≤ frameCap - 1

/-- The parameters of `State.reset`: the defaults of R5, and for the two that R5 leaves OPEN without
a default the values of program P1 of spec/95_test_vectors.md (DESIGN CHOICE, log 1; the defaults:
log 2). Every other value of every parameter is admitted in every other state. -/
def Params.default : Params :=
  { rxCap := 64, nqDepth := 2, chkSeed := 0xEF#32,
    syncMarker := [0x07#8, 0x07#8, 0x12#8, 0x20#8],
    flashBlockSize := 0x400, wordOrder := .be, dataPad := 0, fendLen := 4, fendArg := 0#32,
    statusOffset := 2, valueOffset := 4 }

/-- FREE VALUE (R131, "draw ok"; log 15): whether the UART accepts the n-th write whose outcome the
environment has not settled beforehand. Nothing constrains it. -/
opaque Config.uartAccepts : Nat → Bool

/-- FREE VALUE (R131, "draw k"; log 15): how much of the n-th such write goes out when it fails,
reduced to a strict part of the write where it is used. Nothing constrains it. -/
opaque Config.uartCut : Nat → Nat

end Sys2Proof
end

