-- ==== Sys2Proof/Syntax.lean ====
section
/-! DEFINITION. The instruction set: one constructor for each of the 33 rows of
spec/opcode_table.json, and the five formats the rows stand in. -/

namespace Sys2Proof

/-- The five formats of spec/opcode_table.json (spec/30_encoding.md). The bits of a word do not say
which format it has: the port it arrives on does (log 4). -/
inductive Format where
  /-- `host_op`: an operation of the operation port (R100). -/
  | hostOp
  /-- `rom_request`: a request packet (R92). -/
  | romRequest
  /-- `rom_response`: a response packet (R94). -/
  | romResponse
  /-- `slip_rx_byte`: a byte received by the deframer (R91). -/
  | rxByte
  /-- `slip_tx_escape`: a packet byte handed to the framer (R181). -/
  | txByte
deriving DecidableEq, Repr

/-- The execution contexts of R320. -/
inductive Context where
  /-- The UART/DMA interrupt context. -/
  | interrupt
  /-- The one consumer thread. -/
  | consumer
  /-- A caller thread. -/
  | caller
deriving DecidableEq, Repr

/-- The instructions: every row of spec/opcode_table.json. Operands are the raw fields of the
encoding; whether a value is legal is the meaning's to check (R101). A data field's length field is
its list's length. -/
inductive Instr where
  -- host_op (R100)
  | setmode (m : Byte)
  | getmode
  | setdev (p : Byte)
  | cancel
  | rddiag
  | rxsig (src : Byte)
  | drain
  | send (data : List Byte)
  | slipBegin
  | slipByte (b : Byte)
  | slipEnd
  | slipRxbyte (b : Byte)
  | romSync
  | romReadreg (addr : Word32)
  | romFbegin (size off : Word32)
  | romFdata (seq : Word32) (data : List Byte)
  | romFend
  | romParse (frame : List Byte)
  -- rom_request (R92, R95): the checksum field and the payload; the length field is the payload's
  | flashBegin (chk : Word32) (payload : List Byte)
  | flashData (chk : Word32) (payload : List Byte)
  | flashEnd (chk : Word32) (payload : List Byte)
  | sync (chk : Word32) (payload : List Byte)
  | writeReg (chk : Word32) (payload : List Byte)
  | readReg (chk : Word32) (payload : List Byte)
  -- rom_response (R94): the packet after its direction byte 0x01
  | response (rest : List Byte)
  -- slip_rx_byte (R91)
  | rxEnd
  | rxEsc
  | rxEscEnd
  | rxEscEsc
  | rxOther (b : Byte)
  -- slip_tx_escape (R181)
  | txEscEnd
  | txEscEsc
  | txLiteral (b : Byte)
deriving DecidableEq, Repr

/-- The format of each row, as spec/opcode_table.json gives it. -/
def Instr.format : Instr → Format
  | .setmode _ | .getmode | .setdev _ | .cancel | .rddiag | .rxsig _ | .drain | .send _
  | .slipBegin | .slipByte _ | .slipEnd | .slipRxbyte _ | .romSync | .romReadreg _
  | .romFbegin _ _ | .romFdata _ _ | .romFend | .romParse _ => .hostOp
  | .flashBegin _ _ | .flashData _ _ | .flashEnd _ _ | .sync _ _ | .writeReg _ _
  | .readReg _ _ => .romRequest
  | .response _ => .romResponse
  | .rxEnd | .rxEsc | .rxEscEnd | .rxEscEsc | .rxOther _ => .rxByte
  | .txEscEnd | .txEscEsc | .txLiteral _ => .txByte

end Sys2Proof
end

