-- ==== Sys2Proof/WellFormed.lean ====
section
/-! DEFINITION. Which instructions have an encoding: the widths of their length fields, and the
priority of the byte classes. Illegal operand VALUES that do have an encoding are well-formed; they
answer BAD_ARG when they run (R102). -/

namespace Sys2Proof

/-- A 16-bit length field holds this length (R92: "`len(payload)` <= 65535"; R101). -/
def fits16 (bs : List Byte) : Bool := decide (bs.length < 65536)

/-- An 8-bit length field holds this length (R101, ROM_PARSE). -/
def fits8 (bs : List Byte) : Bool := decide (bs.length < 256)

/-- Not one of the four bytes that R91 gives a class of its own. -/
def isOtherByte (b : Byte) : Bool :=
  !(b == 0xC0#8 || b == 0xDB#8 || b == 0xDC#8 || b == 0xDD#8)

/-- Not one of the two bytes that R181 escapes. -/
def isLiteralByte (b : Byte) : Bool := !(b == 0xC0#8 || b == 0xDB#8)

/-- An instruction that the encodings of R92, R94, R100, R101, R91 and R181 can carry. -/
def Instr.wellFormed : Instr → Bool
  | .send data => fits16 data
  | .romFdata _ data => fits16 data
  | .romParse frame => fits8 frame
  | .flashBegin _ payload => fits16 payload
  | .flashData _ payload => fits16 payload
  | .flashEnd _ payload => fits16 payload
  | .sync _ payload => fits16 payload
  | .writeReg _ payload => fits16 payload
  | .readReg _ payload => fits16 payload
  | .rxOther b => isOtherByte b
  | .txLiteral b => isLiteralByte b
  | .setmode _ | .getmode | .setdev _ | .cancel | .rddiag | .rxsig _ | .drain | .slipBegin
  | .slipByte _ | .slipEnd | .slipRxbyte _ | .romSync | .romReadreg _ | .romFbegin _ _
  | .romFend | .response _ | .rxEnd | .rxEsc | .rxEscEnd | .rxEscEsc | .txEscEnd
  | .txEscEsc => true

end Sys2Proof
end

