-- ==== Sys2Proof/Decode.lean ====
section
/-! DEFINITION. Byte order (spec/00_scope.md R9), the decoder of the five formats
(spec/30_encoding.md R91, R92, R94, R95, R100, R101), total on any bytes, and the encoder. -/

namespace Sys2Proof

/-! ### Integer encodings (R9) -/

/-- `le16(v)`: low byte first. -/
def le16 (v : Word16) : List Byte := [v.extractLsb' 0 8, v.extractLsb' 8 8]

/-- `le32(v)`: low byte first. -/
def le32 (v : Word32) : List Byte :=
  [v.extractLsb' 0 8, v.extractLsb' 8 8, v.extractLsb' 16 8, v.extractLsb' 24 8]

/-- `be32(v)`: high byte first. -/
def be32 (v : Word32) : List Byte :=
  [v.extractLsb' 24 8, v.extractLsb' 16 8, v.extractLsb' 8 8, v.extractLsb' 0 8]

/-- `word(v)`: a 32-bit word of a request payload, in the order `PAYLOAD_WORD_ORDER` names. -/
def payloadWord (order : WordOrder) (v : Word32) : List Byte :=
  match order with
  | .be => be32 v
  | .le => le32 v

/-- The 16-bit integer whose low byte is `b0`. -/
def join16 (b0 b1 : Byte) : Word16 := b1 ++ b0

/-- The 32-bit integer whose lowest byte is `b0`. -/
def join32 (b0 b1 b2 b3 : Byte) : Word32 := b3 ++ b2 ++ b1 ++ b0

/-- `rdle32(s, i)` (R9). A byte past the end of `s` reads as 0; no rule reads one. -/
def rdle32 (s : List Byte) (i : Nat) : Word32 :=
  join32 (s.getD i 0#8) (s.getD (i + 1) 0#8) (s.getD (i + 2) 0#8) (s.getD (i + 3) 0#8)

/-- The word that `payloadWord` lays at index `i` of a payload. -/
def payloadWordAt (order : WordOrder) (s : List Byte) (i : Nat) : Word32 :=
  match order with
  | .be => join32 (s.getD (i + 3) 0#8) (s.getD (i + 2) 0#8) (s.getD (i + 1) 0#8) (s.getD i 0#8)
  | .le => rdle32 s i

/-! ### The decoder -/

/-- Why bytes are no instruction of their format. -/
inductive DecodeError where
  /-- No byte at all. -/
  | empty
  /-- A host operation whose op code R100 does not list (R102 (a), R166). -/
  | unknownOp (op : Byte)
  /-- The bytes end before the last operand or payload byte. -/
  | truncated
  /-- A request packet whose direction byte is not 0x00 (R96). -/
  | notRequest (direction : Byte)
  /-- A request packet with an opcode R95 does not list. -/
  | unlistedRequest (opcode : Byte)
  /-- A packet on the response side whose direction byte is not 0x01, or which is empty (R96). -/
  | notResponse (packet : List Byte)
deriving DecidableEq, Repr

/-- What a decoder answers: an instruction and the bytes after it, or why there is none. -/
abbrev Decoded := Except DecodeError (Instr × List Byte)

/-- Take an 8-bit operand. -/
def withByte (bs : List Byte) (k : Byte → List Byte → Decoded) : Decoded :=
  match bs with
  | b :: rest => k b rest
  | _ => .error .truncated

/-- Take a 16-bit little-endian operand (R101). -/
def withWord16 (bs : List Byte) (k : Word16 → List Byte → Decoded) : Decoded :=
  match bs with
  | b0 :: b1 :: rest => k (join16 b0 b1) rest
  | _ => .error .truncated

/-- Take a 32-bit little-endian operand (R101). -/
def withWord32 (bs : List Byte) (k : Word32 → List Byte → Decoded) : Decoded :=
  match bs with
  | b0 :: b1 :: b2 :: b3 :: rest => k (join32 b0 b1 b2 b3) rest
  | _ => .error .truncated

/-- Take a data field of `n` bytes (R101). -/
def withData (n : Nat) (bs : List Byte) (k : List Byte → List Byte → Decoded) : Decoded :=
  if bs.length < n then .error .truncated else k (bs.take n) (bs.drop n)

/-- A host operation (R100, R101): an 8-bit op code, then its operand fields. -/
def decodeHostOp (bs : List Byte) : Decoded :=
  match bs with
  | [] => .error .empty
  | op :: rest =>
    if op = 0x01#8 then withByte rest fun m t => .ok (.setmode m, t)
    else if op = 0x02#8 then .ok (.getmode, rest)
    else if op = 0x03#8 then withByte rest fun p t => .ok (.setdev p, t)
    else if op = 0x04#8 then .ok (.cancel, rest)
    else if op = 0x05#8 then .ok (.rddiag, rest)
    else if op = 0x10#8 then withByte rest fun src t => .ok (.rxsig src, t)
    else if op = 0x11#8 then .ok (.drain, rest)
    else if op = 0x12#8 then
      withWord16 rest fun n t => withData n.toNat t fun data t => .ok (.send data, t)
    else if op = 0x20#8 then .ok (.slipBegin, rest)
    else if op = 0x21#8 then withByte rest fun b t => .ok (.slipByte b, t)
    else if op = 0x22#8 then .ok (.slipEnd, rest)
    else if op = 0x23#8 then withByte rest fun b t => .ok (.slipRxbyte b, t)
    else if op = 0x30#8 then .ok (.romSync, rest)
    else if op = 0x31#8 then withWord32 rest fun addr t => .ok (.romReadreg addr, t)
    else if op = 0x32#8 then
      withWord32 rest fun size t => withWord32 t fun off t => .ok (.romFbegin size off, t)
    else if op = 0x33#8 then
      withWord32 rest fun seq t => withWord16 t fun n t =>
        withData n.toNat t fun data t => .ok (.romFdata seq data, t)
    else if op = 0x34#8 then .ok (.romFend, rest)
    else if op = 0x35#8 then
      withByte rest fun n t => withData n.toNat t fun frame t => .ok (.romParse frame, t)
    else .error (.unknownOp op)

/-- The request of an opcode that R95 lists, with its checksum field and payload. -/
def requestOf (opcode : Byte) (chk : Word32) (payload : List Byte) : Option Instr :=
  if opcode = 0x02#8 then some (.flashBegin chk payload)
  else if opcode = 0x03#8 then some (.flashData chk payload)
  else if opcode = 0x04#8 then some (.flashEnd chk payload)
  else if opcode = 0x08#8 then some (.sync chk payload)
  else if opcode = 0x09#8 then some (.writeReg chk payload)
  else if opcode = 0x0A#8 then some (.readReg chk payload)
  else none

/-- A request packet (R92): direction 0x00, opcode, length, checksum, payload. -/
def decodeRequest (bs : List Byte) : Decoded :=
  match bs with
  | [] => .error .empty
  | dir :: rest =>
    if dir = 0x00#8 then
      withByte rest fun opcode t => withWord16 t fun n t => withWord32 t fun chk t =>
        withData n.toNat t fun payload t =>
          match requestOf opcode chk payload with
          | some i => .ok (i, t)
          | none => .error (.unlistedRequest opcode)
    else .error (.notRequest dir)

/-- A response packet (R94): direction 0x01, and the rest. It carries no length that the block reads
(R98), so it is all of the bytes. -/
def decodeResponse (bs : List Byte) : Decoded :=
  match bs with
  | [] => .error (.notResponse [])
  | dir :: rest => if dir = 0x01#8 then .ok (.response rest, []) else .error (.notResponse bs)

/-- The class of a byte the deframer receives (R91). -/
def rxClass (b : Byte) : Instr :=
  if b = 0xC0#8 then .rxEnd
  else if b = 0xDB#8 then .rxEsc
  else if b = 0xDC#8 then .rxEscEnd
  else if b = 0xDD#8 then .rxEscEsc
  else .rxOther b

/-- The row of R181 for a packet byte the framer sends. -/
def txClass (b : Byte) : Instr :=
  if b = 0xC0#8 then .txEscEnd
  else if b = 0xDB#8 then .txEscEsc
  else .txLiteral b

/-- The decoder: total on any bytes, and a word of no row is rejected by name. -/
def decode (fmt : Format) (bs : List Byte) : Decoded :=
  match fmt with
  | .hostOp => decodeHostOp bs
  | .romRequest => decodeRequest bs
  | .romResponse => decodeResponse bs
  | .rxByte =>
    match bs with
    | [] => .error .empty
    | b :: rest => .ok (rxClass b, rest)
  | .txByte =>
    match bs with
    | [] => .error .empty
    | b :: rest => .ok (txClass b, rest)

/-! ### The encoder -/

/-- A request packet, `pkt(op, payload, chk)` (R220, R92). -/
def requestPacket (opcode : Byte) (payload : List Byte) (chk : Word32) : List Byte :=
  [0x00#8, opcode] ++ le16 (BitVec.ofNat 16 payload.length) ++ le32 chk ++ payload

/-- The bytes of a well-formed instruction: R100 and R101 for operations, R92 and R95 for request
packets, R94 for response packets, R91 and R181 for bytes. -/
def encode : Instr → List Byte
  | .setmode m => [0x01#8, m]
  | .getmode => [0x02#8]
  | .setdev p => [0x03#8, p]
  | .cancel => [0x04#8]
  | .rddiag => [0x05#8]
  | .rxsig src => [0x10#8, src]
  | .drain => [0x11#8]
  | .send data => [0x12#8] ++ le16 (BitVec.ofNat 16 data.length) ++ data
  | .slipBegin => [0x20#8]
  | .slipByte b => [0x21#8, b]
  | .slipEnd => [0x22#8]
  | .slipRxbyte b => [0x23#8, b]
  | .romSync => [0x30#8]
  | .romReadreg addr => [0x31#8] ++ le32 addr
  | .romFbegin size off => [0x32#8] ++ le32 size ++ le32 off
  | .romFdata seq data =>
    [0x33#8] ++ le32 seq ++ le16 (BitVec.ofNat 16 data.length) ++ data
  | .romFend => [0x34#8]
  | .romParse frame => [0x35#8, BitVec.ofNat 8 frame.length] ++ frame
  | .flashBegin chk payload => requestPacket 0x02#8 payload chk
  | .flashData chk payload => requestPacket 0x03#8 payload chk
  | .flashEnd chk payload => requestPacket 0x04#8 payload chk
  | .sync chk payload => requestPacket 0x08#8 payload chk
  | .writeReg chk payload => requestPacket 0x09#8 payload chk
  | .readReg chk payload => requestPacket 0x0A#8 payload chk
  | .response rest => 0x01#8 :: rest
  | .rxEnd => [0xC0#8]
  | .rxEsc => [0xDB#8]
  | .rxEscEnd => [0xDC#8]
  | .rxEscEsc => [0xDD#8]
  | .rxOther b => [b]
  | .txEscEnd => [0xC0#8]
  | .txEscEsc => [0xDB#8]
  | .txLiteral b => [b]

/-! ### Words of the opcode table -/

/-- Is the byte an op code that R100 assigns? -/
def isOpCode (op : Byte) : Bool :=
  [0x01#8, 0x02#8, 0x03#8, 0x04#8, 0x05#8, 0x10#8, 0x11#8, 0x12#8, 0x20#8, 0x21#8, 0x22#8, 0x23#8,
    0x30#8, 0x31#8, 0x32#8, 0x33#8, 0x34#8, 0x35#8].contains op

/-- The format a word of spec/opcode_table.json is read in. The 16-bit rows are the request packets.
The 8-bit words do not determine their format (SETMODE and RESPONSE are both 0x01, RX_END and
TX_ESC_END both 0xC0): an assigned op code is read as an operation, every other byte as a received
byte (DESIGN CHOICE, log 4). -/
def tableFormat (nbits w : Nat) : Format :=
  if nbits = 16 then .romRequest
  else if isOpCode (BitVec.ofNat 8 w) then .hostOp
  else .rxByte

/-- The bytes of a word of spec/opcode_table.json, and zeros after it. A 16-bit row's number has the
packet's byte 0, the direction, as its HIGH byte (`match` 0x0002 is direction 0x00, opcode 0x02;
R92), so the word is laid out high byte first (DEDUCED, log 5). -/
def tableBytes (nbits w : Nat) : List Byte :=
  (if nbits = 16 then [BitVec.ofNat 8 (w / 256), BitVec.ofNat 8 w]
    else (List.range ((nbits + 7) / 8)).map fun k => BitVec.ofNat 8 (w / 256 ^ k)) ++
    List.replicate 16 0x00#8

/-- The instruction the decoder reads from a word of the table; none where it refuses. -/
def decodeTableWord (nbits w : Nat) : Option Instr :=
  match decode (tableFormat nbits w) (tableBytes nbits w) with
  | .ok (i, _) => some i
  | .error _ => none

end Sys2Proof
end

