-- ==== Sys2Proof/Machine/State.lean ====
section
/-! DEFINITION. The state of the block (spec/10_state.md, spec/20_memory.md R60,
spec/60_exceptions.md R311) as plain data, the reasons a step can stop, and the state after reset
(spec/70_reset_and_hazards.md R340, R341). -/

namespace Sys2Proof.Machine

/-- The operating mode (R22). The reserved encoding 3 is never held. -/
inductive Mode where
  /-- 0: no transport configured. -/
  | uninitialized
  /-- 1: drained bytes go to the AT feed. -/
  | running
  /-- 2: drained bytes go to the deframer. -/
  | flashing
deriving DecidableEq, Repr

/-- The deframer's state (R28). The reserved encoding 3 is never held. -/
inductive RxfState where
  /-- 0: outside a frame. -/
  | idle
  /-- 1: inside a frame. -/
  | inFrame
  /-- 2: inside a frame, after an 0xDB. -/
  | escPending
deriving DecidableEq, Repr

/-- The interrupt sources (R310). -/
inductive IrqSource where
  /-- 0: DMA half-transfer. -/
  | ht
  /-- 1: DMA transfer-complete. -/
  | tc
  /-- 2: UART idle line. -/
  | idle
deriving DecidableEq, Repr

/-- The result codes of operations (R300). -/
inductive ResultCode where
  | ok
  | noDevice
  | uartWriteFail
  | notConfigured
  | sequencing
  | busy
  | badArg
  | illegalTransition
  | nothingPending
  | unknownOp
deriving DecidableEq, Repr

/-- What an operation returns: `(code, value)` (R300). -/
structure OpResult where
  code : ResultCode
  value : Nat
deriving DecidableEq, Repr

/-- The completion codes (R301). -/
inductive CompletionCode where
  | ok
  | statusFail
  | protocol
  | framing
  | timeout
deriving DecidableEq, Repr

/-- A completion record (R244). -/
structure Completion where
  code : CompletionCode
  op : Byte
  status : Byte
  value : Word32
deriving DecidableEq, Repr

/-- An entry of an output log (R35): something recorded, or the marker a reset leaves (R340). -/
inductive LogItem (α : Type) where
  | item (a : α)
  | resetMark
deriving DecidableEq, Repr

/-- A byte space: (index, byte) pairs, indices strictly rising, no byte equal to what an unlisted
index reads as. -/
abbrev Memory := List Host.Cell

/-- An outcome of a UART write that the environment has settled beforehand (R131; log 15). -/
inductive UartDraw where
  /-- The UART accepts the whole write. -/
  | accept
  /-- The UART fails after `sent` bytes; a number that is no strict part is reduced to one. -/
  | fail (sent : Nat)
deriving DecidableEq, Repr

/-- A step of an agent other than the consumer (R7), or a reset (R340). -/
inductive AgentStep where
  /-- The host configures the circular receive: the DMA agent starts at position 0 (R341, R342). -/
  | dmaConfigure
  /-- `DMA_RX(b)`: the DMA agent writes one received byte (R64). -/
  | dmaRx (b : Byte)
  /-- The UART detects an idle line: IRQ_IDLE becomes pending (R311). -/
  | lineIdle
  /-- A pending IRQ_IDLE is dropped while it is disabled (R311: "A model may also drop it"). -/
  | dropIdle
  /-- The interrupt agent delivers a source (R311). -/
  | deliver (src : IrqSource)
  /-- Reset (R340), with the values R340 and R341 leave unspecified: DMA_REMAINING, and any bytes
  for RXBUF and FRAME. -/
  | reset (dmaRemaining : Nat) (ring frame : List Host.Cell)
deriving DecidableEq, Repr

/-- What happens next (R7, R66): bytes on one of the block's encoded ports, issued from a context
(R320), or a step of another agent. -/
inductive Event where
  | word (ctx : Context) (fmt : Format) (bytes : List Byte)
  | agent (a : AgentStep)
deriving DecidableEq, Repr

/-- The reasons the machine stops: an index that does not exist (R60). Safe: no state that the block
reaches raises one (they guard states that break R25 or R29; log 20). -/
inductive Fault where
  /-- DRAIN would read RXBUF from an index that is not below RX_CAP (R25, R60). Raised by DRAIN.
  Safe. -/
  | rxbufIndex (index : Nat)
  /-- The deframer would use FRAME beyond its 128 bytes (R29, R30, R60). Raised by DRAIN in Flashing,
  SLIP_RXBYTE and the received-byte rows. Safe. -/
  | frameIndex (length : Nat)
deriving DecidableEq, Repr

/-- The reasons the machine has no meaning for what it is given. -/
inductive Refusal where
  /-- An instruction whose meaning is not written: raised by no arm of this model. Safe. -/
  | notModelled (mnemonic : String)
  /-- An unassigned op code (R166: "A model that receives one marks the run refused"). The block
  returns (UNKNOWN_OP, 0) and writes no state. Raised by step. Safe (log 11). -/
  | unknownOp (op : Byte)
  /-- An operation issued from a context that may not issue it (R320; 93 A20: "refuse: not a
  transition of the model"). Raised by step. Safe (log 12). -/
  | wrongContext
  /-- A word that ends before its last operand byte, or is empty: no instruction. Raised by step.
  Safe (log 13). -/
  | incompleteWord
  /-- A packet on the request side with a direction byte other than 0x00: the block sends none
  (R96). Raised by step. Safe (log 13). -/
  | notRequest (direction : Byte)
  /-- A request packet with an opcode that R95 does not list: the block builds none. Raised by step.
  Safe (log 13). -/
  | unlistedRequest (opcode : Byte)
  /-- WRITE_REG: "the block has no builder for it" (R228). Raised by the WRITE_REG row. Safe
  (log 10). -/
  | noBuilder
deriving DecidableEq, Repr

/-- The state of the block and of the agents around it. -/
structure State where
  /-- The implementation parameters (R5); no step writes them. -/
  cfg : Params
  /-- MODE (R22). -/
  mode : Mode
  /-- IDLE_IRQ_EN (R23). -/
  idleIrqEn : Bool
  /-- DEV_PRESENT (R24). -/
  devPresent : Bool
  /-- LAST_POS (R25). -/
  lastPos : Nat
  /-- NQ_COUNT (R26). -/
  nqCount : Nat
  /-- DMA_REMAINING (R27). -/
  dmaRemaining : Nat
  /-- The DMA agent's circular transfer is running (R341; log 16). -/
  dmaActive : Bool
  /-- IRQ_HT pending (R311). -/
  irqHt : Bool
  /-- IRQ_TC pending (R311). -/
  irqTc : Bool
  /-- IRQ_IDLE pending (R311). -/
  irqIdle : Bool
  /-- RXBUF, the circular receive buffer (R60). -/
  rxbuf : Memory
  /-- RXF_STATE (R28). -/
  rxfState : RxfState
  /-- RXF_LEN (R29). -/
  rxfLen : Nat
  /-- FRAME, the deframer's frame buffer (R30, R60). -/
  frame : Memory
  /-- RXF_TRUNC (R31). -/
  rxfTrunc : Bool
  /-- TX_OPEN (R32). -/
  txOpen : Bool
  /-- TX_PEND (R32). -/
  txPend : List Byte
  /-- PEND_AWAIT (R33). -/
  pendAwait : Bool
  /-- PEND_OP (R33). -/
  pendOp : Byte
  /-- DIAG (R34): bit 0 OVF, bit 1 BADESC, bit 2 PROTO, bit 3 LATE. -/
  diag : BitVec 4
  /-- TXLOG (R35). -/
  txLog : List (LogItem Byte)
  /-- ATLOG (R35). -/
  atLog : List (LogItem Byte)
  /-- CPLLOG (R35). -/
  cplLog : List (LogItem Completion)
  /-- What the last operation returned (R300); none when none has since reset (log 14). -/
  result : Option OpResult
  /-- The model's own: UART outcomes the environment has settled beforehand (R131; log 15). -/
  uartScript : List UartDraw
  /-- The model's own: the argument of the next free UART outcome (R131; log 15). -/
  uartDraws : Nat
  /-- The model's own: what happens next, in the order of the interleaving (R66; log 3). -/
  port : List Event
deriving DecidableEq, Repr

/-- The block right after reset (R340, R341), for any parameters and any values of what reset leaves
unspecified: DMA_REMAINING, RXBUF and FRAME. -/
def State.resetWith (cfg : Params) (dmaRemaining : Nat) (rxbuf frame : Memory) : State :=
  { cfg := cfg, mode := .uninitialized, idleIrqEn := false, devPresent := false,
    lastPos := 0, nqCount := 0, dmaRemaining := dmaRemaining, dmaActive := false,
    irqHt := false, irqTc := false, irqIdle := false, rxbuf := rxbuf,
    rxfState := .idle, rxfLen := 0, frame := frame, rxfTrunc := false,
    txOpen := false, txPend := [], pendAwait := false, pendOp := 0x00#8, diag := 0#4,
    txLog := [], atLog := [], cplLog := [], result := none,
    uartScript := [], uartDraws := 0, port := [] }

/-- The machine right after reset: R340 and R341, with the default parameters, and 0 for what reset
leaves unspecified (DESIGN CHOICE, log 1, 18, 19). -/
def State.reset : State := State.resetWith Params.default 0 [] []

end Sys2Proof.Machine
end

