-- ==== Sys2Proof/Machine/Flags.lean ====
section
/-! DEFINITION. The block's flags (spec/10_state.md R34, R36): the sticky DIAG bits, and the value
IDLE_IRQ_EN is armed with. The block has no arithmetic condition codes (R36). -/

namespace Sys2Proof.Machine

/-- DIAG bit 0, OVF (R34). -/
def diagOvf : BitVec 4 := 0b0001#4

/-- DIAG bit 1, BADESC (R34). -/
def diagBadesc : BitVec 4 := 0b0010#4

/-- DIAG bit 2, PROTO (R34). -/
def diagProto : BitVec 4 := 0b0100#4

/-- DIAG bit 3, LATE (R34). -/
def diagLate : BitVec 4 := 0b1000#4

/-- Set sticky DIAG bits (R34). -/
def State.setDiag (bits : BitVec 4) (s : State) : State := { s with diag := s.diag ||| bits }

/-- The 8-bit value of a DIAG read: bits 7 to 4 are 0 (R34, R165). -/
def State.diagRead (s : State) : Byte := s.diag.setWidth 8

/-- `(MODE = Running)`: the value RXSIG and SETMODE give IDLE_IRQ_EN (R23, R130, R160). -/
def Mode.armsIdleIrq : Mode → Bool
  | .running => true
  | .uninitialized | .flashing => false

end Sys2Proof.Machine
end

