-- ==== Sys2Proof/Machine/Ops.lean ====
section
/-! DEFINITION. The named operations every meaning is written over: one-byte memory access
(spec/20_memory.md R60, R62), results and error delivery (spec/60_exceptions.md R300 to R303), the
output logs (spec/10_state.md R35), the UART write primitive (spec/40_byte_source.md R131) and the
resolution of the pending request (spec/43_rom_codec.md R244). -/

namespace Sys2Proof.Machine

/-! ### Memory (R60, R62) -/

/-- What an unlisted index of RXBUF or FRAME reads as (DESIGN CHOICE, log 19). -/
def Memory.unlisted : Byte := 0x00#8

/-- `MemRead(space, i, 1)` (R10). -/
def Memory.read : Memory → Nat → Byte
  | [], _ => Memory.unlisted
  | (k, b) :: rest, i => if k = i then b else Memory.read rest i

/-- `MemWrite(space, i, 1, b)` (R10), keeping the canonical form. -/
def Memory.write : Memory → Nat → Byte → Memory
  | [], i, b => if b = Memory.unlisted then [] else [(i, b)]
  | (k, c) :: rest, i, b =>
    if i < k then
      if b = Memory.unlisted then (k, c) :: rest else (i, b) :: (k, c) :: rest
    else if i = k then
      if b = Memory.unlisted then rest else (i, b) :: rest
    else (k, c) :: Memory.write rest i b

/-- The canonical form: indices strictly rising, no entry equal to what an unlisted index reads as. -/
abbrev Memory.wf (m : Memory) : Prop :=
  m.Pairwise (fun c d => c.1 < d.1) ∧ ∀ c ∈ m, c.2 ≠ Memory.unlisted

/-- Every listed index exists in a space of `n` bytes (R60). -/
abbrev Memory.within (n : Nat) (m : Memory) : Prop := ∀ c ∈ m, c.1 < n

/-- Bytes `i` to `j - 1`, in order. -/
def Memory.slice (m : Memory) (i j : Nat) : List Byte := (List.range' i (j - i)).map m.read

/-- Write each of the cells whose index exists in a space of `n` bytes. -/
def Memory.overlay (n : Nat) (cells : List Host.Cell) (m : Memory) : Memory :=
  cells.foldl (fun acc c => if c.1 < n then acc.write c.1 c.2 else acc) m

/-! ### Results and error delivery (R300 to R303) -/

/-- The numeric value of a result code (R300). -/
def ResultCode.number : ResultCode → Nat
  | .ok => 0
  | .noDevice => 1
  | .uartWriteFail => 2
  | .notConfigured => 3
  | .sequencing => 4
  | .busy => 5
  | .badArg => 6
  | .illegalTransition => 7
  | .nothingPending => 8
  | .unknownOp => 9

/-- The numeric value of a completion code (R301). -/
def CompletionCode.number : CompletionCode → Nat
  | .ok => 0
  | .statusFail => 16
  | .protocol => 17
  | .framing => 18
  | .timeout => 19

/-- `return (code, value)` (R10, R300). -/
def State.ret (code : ResultCode) (value : Nat) (s : State) : State :=
  { s with result := some { code := code, value := value } }

/-- `raise E` (R10), the block's error delivery (R303): nothing is saved, no control is transferred,
and the result code is the only effect. There is no handler to return from (R305). -/
def State.raise (code : ResultCode) (s : State) : State := s.ret code 0

/-- The result the block returns with a refusal (R166: UNKNOWN_OP); none for the others. -/
def Refusal.result : Refusal → Option OpResult
  | .unknownOp _ => some { code := .unknownOp, value := 0 }
  | _ => none

/-! ### Output logs (R10, R35) -/

/-- `emit_tx(bs)`. -/
def State.emitTx (bs : List Byte) (s : State) : State :=
  { s with txLog := s.txLog ++ bs.map .item }

/-- `feed_at(bs)`. -/
def State.feedAt (bs : List Byte) (s : State) : State :=
  { s with atLog := s.atLog ++ bs.map .item }

/-- `complete(code, op, status, value)` (R244). -/
def State.complete (code : CompletionCode) (op status : Byte) (value : Word32) (s : State) : State :=
  { s with cplLog :=
      s.cplLog ++ [.item { code := code, op := op, status := status, value := value }] }

/-! ### The pending request (R33, R244) -/

/-- `complete(...)` and then `PEND_AWAIT <- 0`: how a pending request is resolved. PEND_OP keeps its
value (R33). -/
def State.resolve (code : CompletionCode) (op status : Byte) (value : Word32) (s : State) : State :=
  { s.complete code op status value with pendAwait := false }

/-- Fail the pending request, if one is awaiting (R192, R242). -/
def State.failPending (code : CompletionCode) (s : State) : State :=
  if s.pendAwait = true then s.resolve code s.pendOp 0x00#8 0#32 else s

/-! ### The UART write primitive (R131) -/

/-- What `uart_write` reports: accepted or not, and how many bytes went out. -/
structure WriteReport where
  ok : Bool
  sent : Nat
deriving DecidableEq, Repr

/-- The report of a write of `len` bytes (R131): an empty write always succeeds; otherwise the
environment draws. A settled draw comes first; then the free values (log 15). A failed write's count
is a strict part of `len`. -/
def State.uartReport (s : State) (len : Nat) : WriteReport :=
  if len = 0 then { ok := true, sent := 0 }
  else
    match s.uartScript with
    | .accept :: _ => { ok := true, sent := len }
    | .fail k :: _ => { ok := false, sent := k % len }
    | [] =>
      if Config.uartAccepts s.uartDraws = true then { ok := true, sent := len }
      else { ok := false, sent := Config.uartCut s.uartDraws % len }

/-- A draw is made once: take the settled outcome, or move to the next free value. -/
def State.spendDraw (s : State) : State :=
  match s.uartScript with
  | _ :: rest => { s with uartScript := rest }
  | [] => { s with uartDraws := s.uartDraws + 1 }

/-- `uart_write(bs)` (R131): the bytes that went out reach TXLOG. -/
def State.uartWrite (bs : List Byte) (s : State) : State :=
  if bs.length = 0 then s
  else (s.emitTx (bs.take (s.uartReport bs.length).sent)).spendDraw

/-- The result code of a write (R137, R184, R221). -/
def WriteReport.code (r : WriteReport) : ResultCode := if r.ok = true then .ok else .uartWriteFail

/-- `uart_write`, then return OK or UART_WRITE_FAIL with the count of bytes sent (R137, R184). -/
def State.sendWire (bs : List Byte) (s : State) : State :=
  (s.uartWrite bs).ret (s.uartReport bs.length).code (s.uartReport bs.length).sent

/-! ### Indices that do not exist (R60; log 20) -/

/-- Go on if LAST_POS is an index of RXBUF (R25), else fault. -/
def State.withRing (s : State) (o : Host.Outcome State Fault Refusal) :
    Host.Outcome State Fault Refusal :=
  if s.lastPos < s.cfg.rxCap then o else .fault (.rxbufIndex s.lastPos)

/-- Go on if RXF_LEN is a length FRAME can have (R29), else fault. -/
def State.withFrame (s : State) (o : Host.Outcome State Fault Refusal) :
    Host.Outcome State Fault Refusal :=
  if s.rxfLen ≤ frameCap then o else .fault (.frameIndex s.rxfLen)

end Sys2Proof.Machine
end

