-- ==== Sys2Proof/Machine/Operands.lean ====
section
/-! DEFINITION. Operand forms and their legal values (spec/30_encoding.md R101), the numeric
encodings of MODE and RXF_STATE (spec/10_state.md R22, R28), the legal mode transitions
(spec/41_mode_control.md R161), and which context may issue what (spec/60_exceptions.md R320). -/

namespace Sys2Proof.Machine

/-- The 2-bit encoding of MODE (R22). -/
def Mode.encoding : Mode → BitVec 2
  | .uninitialized => 0#2
  | .running => 1#2
  | .flashing => 2#2

/-- The 2-bit encoding of RXF_STATE (R28). -/
def RxfState.encoding : RxfState → BitVec 2
  | .idle => 0#2
  | .inFrame => 1#2
  | .escPending => 2#2

/-- The mode SETMODE's operand names (R101); none for 0, 3 and 4 to 255. -/
def modeOperand (m : Byte) : Option Mode :=
  if m = 1#8 then some .running else if m = 2#8 then some .flashing else none

/-- The value SETDEV's operand names (R101). -/
def presentOperand (p : Byte) : Option Bool :=
  if p = 0#8 then some false else if p = 1#8 then some true else none

/-- The interrupt source RXSIG's operand names (R101). -/
def sourceOperand (src : Byte) : Option IrqSource :=
  if src = 0#8 then some .ht
  else if src = 1#8 then some .tc
  else if src = 2#8 then some .idle
  else none

/-- ROM_FDATA's n: 1 to FLASH_BLOCK_SIZE (R101, R226). -/
def legalBlock (cfg : Params) (data : List Byte) : Bool :=
  decide (1 ≤ data.length ∧ data.length ≤ cfg.flashBlockSize)

/-- ROM_PARSE's frame: n from 2 to FRAME_CAP, a delimiter at each end (R101, R245). -/
def legalFrame (frame : List Byte) : Bool :=
  decide (2 ≤ frame.length ∧ frame.length ≤ frameCap ∧
    frame.head? = some 0xC0#8 ∧ frame.getLast? = some 0xC0#8)

/-- `(from, to) ∈ LEGAL` (R161): Running from anywhere, Flashing from anywhere but Uninitialized,
Uninitialized from nowhere. -/
def legalTransition : Mode → Mode → Bool
  | _, .running => true
  | .uninitialized, .flashing => false
  | .running, .flashing => true
  | .flashing, .flashing => true
  | _, .uninitialized => false

/-- Which context may issue an instruction (R320, R162; log 12): RXSIG is the interrupt context's,
GETMODE anyone's, everything else the consumer's. -/
def contextAllows (ctx : Context) (i : Instr) : Bool :=
  match i with
  | .rxsig _ => decide (ctx = .interrupt)
  | .getmode => true
  | .setmode _ | .setdev _ | .cancel | .rddiag | .drain | .send _ | .slipBegin | .slipByte _
  | .slipEnd | .slipRxbyte _ | .romSync | .romReadreg _ | .romFbegin _ _ | .romFdata _ _
  | .romFend | .romParse _ | .flashBegin _ _ | .flashData _ _ | .flashEnd _ _ | .sync _ _
  | .writeReg _ _ | .readReg _ _ | .response _ | .rxEnd | .rxEsc | .rxEscEnd | .rxEscEsc
  | .rxOther _ | .txEscEnd | .txEscEsc | .txLiteral _ => decide (ctx = .consumer)

end Sys2Proof.Machine
end

