-- ==== Sys2Proof/Machine/Codec.lean ====
section
/-! DEFINITION. The SLIP escape and frame (spec/42_slip.md R180, R181, spec/30_encoding.md R90) and
the ROM codec's shared operations: checksum, payloads, the common build sequence, parse and resolve
(spec/43_rom_codec.md R220 to R222, R240 to R244, spec/30_encoding.md R97). -/

namespace Sys2Proof.Machine

/-! ### SLIP (R90, R180, R181) -/

/-- END, the frame delimiter (R180). -/
def slipEnd : Byte := 0xC0#8

/-- ESC, the escape introducer (R180). -/
def slipEsc : Byte := 0xDB#8

/-- ESC_END: after ESC, stands for 0xC0 (R180). -/
def slipEscEnd : Byte := 0xDC#8

/-- ESC_ESC: after ESC, stands for 0xDB (R180). -/
def slipEscEsc : Byte := 0xDD#8

/-- `esc(b)` (R181). -/
def esc (b : Byte) : List Byte :=
  if b = slipEnd then [slipEsc, slipEscEnd]
  else if b = slipEsc then [slipEsc, slipEscEsc]
  else [b]

/-- `esc*(p)` (R181). -/
def escAll (p : List Byte) : List Byte := p.flatMap esc

/-- The wire frame of a packet (R90). -/
def slipFrame (p : List Byte) : List Byte := [slipEnd] ++ escAll p ++ [slipEnd]

/-! ### Request payloads (R97) and checksum (R222) -/

/-- `fold(d)` (R222): the XOR of the block's bytes over the seed. -/
def fold (seed : Word32) (d : List Byte) : Word32 :=
  d.foldl (fun acc b => acc ^^^ b.setWidth 32) seed

/-- `ceil_div(a, d)` (R9). -/
def ceilDiv (a d : Nat) : Nat := (a + d - 1) / d

/-- `word(v)` in the machine's order (R9). -/
def wordBytes (cfg : Params) (v : Word32) : List Byte := payloadWord cfg.wordOrder v

/-- The SYNC payload (R97, R223). -/
def syncPayload (cfg : Params) : List Byte := cfg.syncMarker ++ List.replicate 32 0x55#8

/-- The READ_REG payload (R97, R224). -/
def readRegPayload (cfg : Params) (addr : Word32) : List Byte := wordBytes cfg addr

/-- The FLASH_BEGIN payload (R97, R225). -/
def flashBeginPayload (cfg : Params) (size off : Word32) : List Byte :=
  wordBytes cfg size ++ wordBytes cfg (BitVec.ofNat 32 (ceilDiv size.toNat cfg.flashBlockSize)) ++
    wordBytes cfg (BitVec.ofNat 32 cfg.flashBlockSize) ++ wordBytes cfg off

/-- The FLASH_DATA payload (R97, R226). -/
def flashDataPayload (cfg : Params) (seq : Word32) (data : List Byte) : List Byte :=
  wordBytes cfg (BitVec.ofNat 32 data.length) ++ wordBytes cfg seq ++
    List.replicate cfg.dataPad 0x00#8 ++ data

/-- The FLASH_END payload (R97, R227). -/
def flashEndPayload (cfg : Params) : List Byte :=
  if cfg.fendLen = 4 then wordBytes cfg cfg.fendArg else []

/-! ### The common build sequence (R221) -/

/-- The wire frame of a request (R220, R90). -/
def requestFrame (opcode : Byte) (payload : List Byte) (chk : Word32) : List Byte :=
  slipFrame (requestPacket opcode payload chk)

/-- `rom_build(op, payload, chk)` (R221): the checks, one UART write of the whole frame, and the
pending request if the write succeeded. -/
def State.romBuild (opcode : Byte) (payload : List Byte) (chk : Word32) (s : State) : State :=
  if s.devPresent = false then s.raise .noDevice
  else if s.mode ≠ .flashing then s.raise .sequencing
  else if s.pendAwait = true ∨ s.txOpen = true then s.raise .busy
  else
    let f := requestFrame opcode payload chk
    if (s.uartReport f.length).ok = true then
      { s.sendWire f with pendAwait := true, pendOp := opcode }
    else s.sendWire f

/-! ### Parse and resolve (R240 to R243) -/

/-- `malformed()` (R242). -/
def State.malformed (s : State) : State := (s.setDiag diagProto).failPending .protocol

/-- The end of `rom_parse(P)` for the response the pending request awaits (R241). -/
def State.resolveResponse (p : List Byte) (s : State) : State :=
  let opcode := p.getD 1 0x00#8
  let status := p.getD s.cfg.statusOffset 0x00#8
  if status ≠ 0x00#8 then s.resolve .statusFail opcode status 0#32
  else if opcode = 0x0A#8 ∧ p.length < s.cfg.valueOffset + 4 then
    (s.setDiag diagProto).resolve .protocol opcode 0x00#8 0#32
  else if opcode = 0x0A#8 then s.resolve .ok opcode 0x00#8 (rdle32 p s.cfg.valueOffset)
  else s.resolve .ok opcode 0x00#8 0#32

/-- `rom_parse(P)` (R241): malformed (R242), late or unmatched (R243), or the awaited response. -/
def State.romParse (p : List Byte) (s : State) : State :=
  if p.length < s.cfg.statusOffset + 1 ∨ p.getD 0 0x00#8 ≠ 0x01#8 then s.malformed
  else if s.pendAwait = false ∨ p.getD 1 0x00#8 ≠ s.pendOp then s.setDiag diagLate
  else s.resolveResponse p

/-- The packet of a frame (R240): the opening delimiter stripped, and the closing one unless the
overflow dropped it. -/
def framePacket (f : List Byte) (truncated : Bool) : List Byte :=
  if truncated = true then f.drop 1 else (f.drop 1).dropLast

/-- `rom_receive(F, T)` (R240). -/
def State.romReceive (f : List Byte) (truncated : Bool) (s : State) : State :=
  s.romParse (framePacket f truncated)

end Sys2Proof.Machine
end

