-- ==== Sys2Proof/Machine/Deframer.lean ====
section
/-! DEFINITION. The deframer (spec/42_slip.md R185 to R194): one transition per received byte. -/

namespace Sys2Proof.Machine

/-- `FRAME[0..RXF_LEN)` (R30). -/
def State.frameBytes (s : State) : List Byte := s.frame.slice 0 s.rxfLen

/-- `append(v)` (R193): store the byte, or drop it and mark the frame truncated. -/
def State.append (v : Byte) (s : State) : State :=
  if s.rxfLen < frameCap then
    { s with frame := s.frame.write s.rxfLen v, rxfLen := s.rxfLen + 1 }
  else { s.setDiag diagOvf with rxfTrunc := true }

/-- `deframer_reset()` (R194). FRAME's bytes stay. -/
def State.deframerReset (s : State) : State :=
  { s with rxfState := .idle, rxfLen := 0, rxfTrunc := false }

/-- `start_frame()` (R186). -/
def State.startFrame (s : State) : State := { s with rxfState := .inFrame }.append slipEnd

/-- The hand-off of the frame that has just been completed (R189, R240). -/
def State.handOff (s : State) : State := s.romReceive s.frameBytes s.rxfTrunc

/-- `end_frame()` (R189): append the delimiter, hand off, reset. -/
def State.endFrame (s : State) : State := (s.append slipEnd).handOff.deframerReset

/-- `bad_escape()` (R192). -/
def State.badEscape (s : State) : State :=
  ((s.setDiag diagBadesc).failPending .framing).deframerReset

/-- `append(v)`, then IN_FRAME (R191). -/
def State.appendEscaped (v : Byte) (s : State) : State :=
  { s.append v with rxfState := .inFrame }

/-- `rx_byte(b)` (R185): the deframer table, R186 to R192. -/
def State.rxByte (b : Byte) (s : State) : State :=
  match s.rxfState with
  | .idle => if b = slipEnd then s.startFrame else s
  | .inFrame =>
    if b = slipEsc then { s with rxfState := .escPending }
    else if b = slipEnd ∧ s.rxfLen = 1 then s
    else if b = slipEnd then s.endFrame
    else s.append b
  | .escPending =>
    if b = slipEscEnd then s.appendEscaped slipEnd
    else if b = slipEscEsc then s.appendEscaped slipEsc
    else s.badEscape

/-- `rx_byte` for every byte of a sequence, in order (R133). -/
def State.rxBytes (bs : List Byte) (s : State) : State := bs.foldl (fun t b => t.rxByte b) s

end Sys2Proof.Machine
end

