-- ==== Sys2Proof/Machine/ByteSource.lean ====
section
/-! DEFINITION. The byte-source controller: RXSIG, DRAIN, SEND (spec/40_byte_source.md). -/

namespace Sys2Proof.Machine

/-! ### RXSIG (R130) -/

/-- The effect of RXSIG (R130): post one token unless the queue is full, and re-arm the idle-line
interrupt by the mode. -/
def State.postToken (s : State) : State :=
  { s with
    nqCount := if s.nqCount < s.cfg.nqDepth then s.nqCount + 1 else s.nqCount,
    idleIrqEn := s.mode.armsIdleIrq }

/-- RXSIG src (R130). -/
def execRxsig (src : Byte) (s : State) : Host.Outcome State Fault Refusal :=
  match sourceOperand src with
  | none => .next (s.raise .badArg)
  | some _ => .next (s.postToken.ret .ok 0)

/-! ### DRAIN (R132 to R136) -/

/-- `drain_pos()` (R135). -/
def State.drainPos (s : State) : Nat := (s.cfg.rxCap - s.dmaRemaining) % s.cfg.rxCap

/-- `segment(l, w)` (R136). -/
def State.segment (s : State) (l w : Nat) : List Byte :=
  if w = l then []
  else if l < w then s.rxbuf.slice l w
  else s.rxbuf.slice l s.cfg.rxCap ++ s.rxbuf.slice 0 w

/-- The newly arrived bytes (R132). -/
def State.newBytes (s : State) : List Byte := s.segment s.lastPos s.drainPos

/-- The wake-up is spent in every outcome of DRAIN (R132). -/
def State.takeToken (s : State) : State := { s with nqCount := s.nqCount - 1 }

/-- `route(seg)` (R133). -/
def State.route (seg : List Byte) (s : State) : State :=
  match s.mode with
  | .running => s.feedAt seg
  | .flashing => s.rxBytes seg
  | .uninitialized => s

/-- The successful drain (R132): deliver the newly arrived bytes, and move LAST_POS past them. -/
def State.drainNew (s : State) : State :=
  ({ s with lastPos := s.drainPos }.route s.newBytes).ret .ok s.newBytes.length

/-- DRAIN (R132, R134). -/
def execDrain (s : State) : Host.Outcome State Fault Refusal :=
  if s.devPresent = false then .next (s.takeToken.raise .noDevice)
  else
    match s.mode with
    | .uninitialized => .next (s.takeToken.raise .notConfigured)
    | .running => s.withRing (.next s.takeToken.drainNew)
    | .flashing => s.withRing (s.withFrame (.next s.takeToken.drainNew))

/-! ### SEND (R137) -/

/-- SEND n, data (R137). -/
def execSend (data : List Byte) (s : State) : Host.Outcome State Fault Refusal :=
  if s.devPresent = false then .next (s.raise .noDevice)
  else if s.mode = .uninitialized then .next (s.raise .notConfigured)
  else if s.txOpen = true then .next (s.raise .busy)
  else .next (s.sendWire data)

end Sys2Proof.Machine
end

