-- ==== Sys2Proof/Machine/ModeControl.lean ====
section
/-! DEFINITION. Mode and control: SETMODE, GETMODE, SETDEV, CANCEL, RDDIAG
(spec/41_mode_control.md). -/

namespace Sys2Proof.Machine

/-- The writes of a legal SETMODE (R160). -/
def State.enterMode (m : Mode) (s : State) : State :=
  let s' := { s with mode := m, idleIrqEn := m.armsIdleIrq }
  match s.mode, m with
  | .uninitialized, .running => { s' with lastPos := 0 }
  | .running, .flashing => s'.deframerReset
  | _, _ => s'

/-- SETMODE m (R160, R161). -/
def execSetmode (m : Byte) (s : State) : Host.Outcome State Fault Refusal :=
  match modeOperand m with
  | none => .next (s.raise .badArg)
  | some target =>
    if legalTransition s.mode target = false then .next (s.raise .illegalTransition)
    else if s.txOpen = true ∨ s.pendAwait = true then .next (s.raise .busy)
    else .next ((s.enterMode target).ret .ok 0)

/-- GETMODE (R162). -/
def execGetmode (s : State) : Host.Outcome State Fault Refusal :=
  .next (s.ret .ok s.mode.encoding.toNat)

/-- SETDEV p (R163). -/
def execSetdev (p : Byte) (s : State) : Host.Outcome State Fault Refusal :=
  match presentOperand p with
  | none => .next (s.raise .badArg)
  | some present => .next ({ s with devPresent := present }.ret .ok 0)

/-- CANCEL (R164): the timeout resolution of the pending request. -/
def execCancel (s : State) : Host.Outcome State Fault Refusal :=
  if s.pendAwait = false then .next (s.ret .nothingPending 0)
  else .next ((s.resolve .timeout s.pendOp 0x00#8 0#32).ret .ok 0)

/-- RDDIAG (R165): read DIAG and clear it. -/
def execRddiag (s : State) : Host.Outcome State Fault Refusal :=
  .next ({ s with diag := 0#4 }.ret .ok s.diagRead.toNat)

end Sys2Proof.Machine
end

