-- ==== Sys2Proof/Machine/RomCodec.lean ====
section
/-! DEFINITION. The ROM-bootloader command codec: the build operations and ROM_PARSE
(spec/43_rom_codec.md R223 to R227, R245), and the packet rows of the opcode table
(spec/30_encoding.md R92, R94, R97; spec/43_rom_codec.md R221, R228, R241). -/

namespace Sys2Proof.Machine

/-! ### Build operations -/

/-- ROM_SYNC (R223). -/
def execRomSync (s : State) : Host.Outcome State Fault Refusal :=
  .next (s.romBuild 0x08#8 (syncPayload s.cfg) 0#32)

/-- ROM_READREG addr (R224). -/
def execRomReadreg (addr : Word32) (s : State) : Host.Outcome State Fault Refusal :=
  .next (s.romBuild 0x0A#8 (readRegPayload s.cfg addr) 0#32)

/-- ROM_FBEGIN size, off (R225). -/
def execRomFbegin (size off : Word32) (s : State) : Host.Outcome State Fault Refusal :=
  .next (s.romBuild 0x02#8 (flashBeginPayload s.cfg size off) 0#32)

/-- ROM_FDATA seq, n, data (R226). -/
def execRomFdata (seq : Word32) (data : List Byte) (s : State) :
    Host.Outcome State Fault Refusal :=
  if legalBlock s.cfg data = false then .next (s.raise .badArg)
  else .next (s.romBuild 0x03#8 (flashDataPayload s.cfg seq data) (fold s.cfg.chkSeed data))

/-- ROM_FEND (R227). -/
def execRomFend (s : State) : Host.Outcome State Fault Refusal :=
  .next (s.romBuild 0x04#8 (flashEndPayload s.cfg) 0#32)

/-- ROM_PARSE n, frame (R245). -/
def execRomParse (frame : List Byte) (s : State) : Host.Outcome State Fault Refusal :=
  if legalFrame frame = false then .next (s.raise .badArg)
  else if s.mode ≠ .flashing then .next (s.raise .sequencing)
  else .next ((s.romReceive frame false).ret .ok 0)

/-! ### Request packets (log 6)

Running a request packet is the codec sending it: the common build sequence of R221 on its opcode,
payload and checksum. A packet whose fields are not those R97 gives its opcode is refused like any
operand outside its legal values: BAD_ARG, no state written (R102 (b)). -/

/-- Send the packet if its payload and checksum are legal. -/
def State.sendRequest (legal : Bool) (opcode : Byte) (payload : List Byte) (chk : Word32)
    (s : State) : State :=
  if legal = false then s.raise .badArg else s.romBuild opcode payload chk

/-- FLASH_BEGIN's fields (R97): the two operands stand in words 0 and 3. -/
def legalFlashBegin (cfg : Params) (chk : Word32) (payload : List Byte) : Bool :=
  decide (chk = 0#32 ∧ payload = flashBeginPayload cfg (payloadWordAt cfg.wordOrder payload 0)
    (payloadWordAt cfg.wordOrder payload 12))

/-- The block of a FLASH_DATA payload (R97). -/
def flashDataBlock (cfg : Params) (payload : List Byte) : List Byte :=
  payload.drop (8 + cfg.dataPad)

/-- FLASH_DATA's fields (R97): the block of 1 to FLASH_BLOCK_SIZE bytes after the prefix, its length
in word 0, and its fold in the checksum. -/
def legalFlashData (cfg : Params) (chk : Word32) (payload : List Byte) : Bool :=
  legalBlock cfg (flashDataBlock cfg payload) &&
    decide (chk = fold cfg.chkSeed (flashDataBlock cfg payload) ∧
      payload = flashDataPayload cfg (payloadWordAt cfg.wordOrder payload 4)
        (flashDataBlock cfg payload))

/-- FLASH_END's fields (R97). -/
def legalFlashEnd (cfg : Params) (chk : Word32) (payload : List Byte) : Bool :=
  decide (chk = 0#32 ∧ payload = flashEndPayload cfg)

/-- SYNC's fields (R97). -/
def legalSync (cfg : Params) (chk : Word32) (payload : List Byte) : Bool :=
  decide (chk = 0#32 ∧ payload = syncPayload cfg)

/-- READ_REG's fields (R97). -/
def legalReadReg (cfg : Params) (chk : Word32) (payload : List Byte) : Bool :=
  decide (chk = 0#32 ∧ payload = readRegPayload cfg (payloadWordAt cfg.wordOrder payload 0))

/-- FLASH_BEGIN (R225, R97). -/
def execFlashBegin (chk : Word32) (payload : List Byte) (s : State) :
    Host.Outcome State Fault Refusal :=
  .next (s.sendRequest (legalFlashBegin s.cfg chk payload) 0x02#8 payload chk)

/-- FLASH_DATA (R226, R97). -/
def execFlashData (chk : Word32) (payload : List Byte) (s : State) :
    Host.Outcome State Fault Refusal :=
  .next (s.sendRequest (legalFlashData s.cfg chk payload) 0x03#8 payload chk)

/-- FLASH_END (R227, R97). -/
def execFlashEnd (chk : Word32) (payload : List Byte) (s : State) :
    Host.Outcome State Fault Refusal :=
  .next (s.sendRequest (legalFlashEnd s.cfg chk payload) 0x04#8 payload chk)

/-- SYNC (R223, R97). -/
def execSync (chk : Word32) (payload : List Byte) (s : State) :
    Host.Outcome State Fault Refusal :=
  .next (s.sendRequest (legalSync s.cfg chk payload) 0x08#8 payload chk)

/-- READ_REG (R224, R97). -/
def execReadReg (chk : Word32) (payload : List Byte) (s : State) :
    Host.Outcome State Fault Refusal :=
  .next (s.sendRequest (legalReadReg s.cfg chk payload) 0x0A#8 payload chk)

/-- WRITE_REG (R228): "the opcode is defined ..., but the block has no builder for it". The spec
gives it no payload and no effect (log 10). -/
def execWriteReg (_chk : Word32) (_payload : List Byte) (_s : State) :
    Host.Outcome State Fault Refusal :=
  .refused .noBuilder

/-! ### Response packets (log 7) -/

/-- RESPONSE (R241): parse and resolve the packet whose direction byte is 0x01. -/
def execResponse (rest : List Byte) (s : State) : Host.Outcome State Fault Refusal :=
  .next (s.romParse (0x01#8 :: rest))

end Sys2Proof.Machine
end

