-- ==== Sys2Proof/Machine/Slip.lean ====
section
/-! DEFINITION. The SLIP operations (spec/42_slip.md R182 to R185), and the byte rows of the opcode
table: the received-byte classes (R91, R186 to R193) and the escape rows of the framer (R181). -/

namespace Sys2Proof.Machine

/-! ### Framer -/

/-- Append encoded bytes to the open frame, or SEQUENCING where no frame is open (R183). -/
def State.txAppend (wire : List Byte) (s : State) : State :=
  if s.txOpen = false then s.raise .sequencing
  else { s with txPend := s.txPend ++ wire }.ret .ok 0

/-- SLIP_BEGIN (R182). -/
def execSlipBegin (s : State) : Host.Outcome State Fault Refusal :=
  if s.mode ≠ .flashing then .next (s.raise .sequencing)
  else if s.txOpen = true then .next (s.raise .busy)
  else .next ({ s with txOpen := true, txPend := [Sys2Proof.Machine.slipEnd] }.ret .ok 0)

/-- SLIP_BYTE b (R183). -/
def execSlipByte (b : Byte) (s : State) : Host.Outcome State Fault Refusal :=
  .next (s.txAppend (esc b))

/-- The frame is closed in every outcome of SLIP_END but SEQUENCING (R184). -/
def State.closeFrame (s : State) : State := { s with txOpen := false, txPend := [] }

/-- SLIP_END (R184). -/
def execSlipEnd (s : State) : Host.Outcome State Fault Refusal :=
  if s.txOpen = false then .next (s.raise .sequencing)
  else if s.devPresent = false then .next (s.closeFrame.raise .noDevice)
  else .next (s.closeFrame.sendWire (s.txPend ++ [slipEnd]))

/-- TX_ESC_END: the packet byte 0xC0 goes out as 0xDB 0xDC (R181; log 9). -/
def execTxEscEnd (s : State) : Host.Outcome State Fault Refusal :=
  .next (s.txAppend [slipEsc, slipEscEnd])

/-- TX_ESC_ESC: the packet byte 0xDB goes out as 0xDB 0xDD (R181; log 9). -/
def execTxEscEsc (s : State) : Host.Outcome State Fault Refusal :=
  .next (s.txAppend [slipEsc, slipEscEsc])

/-- TX_LITERAL: every other packet byte goes out unchanged (R181; log 9). -/
def execTxLiteral (b : Byte) (s : State) : Host.Outcome State Fault Refusal :=
  .next (s.txAppend [b])

/-! ### Deframer -/

/-- SLIP_RXBYTE b (R185). -/
def execSlipRxbyte (b : Byte) (s : State) : Host.Outcome State Fault Refusal :=
  if s.mode ≠ .flashing then .next (s.raise .sequencing)
  else s.withFrame (.next ((s.rxByte b).ret .ok 0))

/-- RX_END, 0xC0: opens a frame in IDLE (R186), ends it in IN_FRAME or is absorbed (R189), is a bad
escape in ESC_PENDING (R192). -/
def execRxEnd (s : State) : Host.Outcome State Fault Refusal :=
  s.withFrame (.next (s.rxByte slipEnd))

/-- RX_ESC, 0xDB: introduces an escape in IN_FRAME (R188), is discarded in IDLE (R187), is a bad
escape in ESC_PENDING (R192). -/
def execRxEsc (s : State) : Host.Outcome State Fault Refusal :=
  s.withFrame (.next (s.rxByte slipEsc))

/-- RX_ESC_END, 0xDC: after ESC appends 0xC0 (R191), otherwise an ordinary byte (R187, R190). -/
def execRxEscEnd (s : State) : Host.Outcome State Fault Refusal :=
  s.withFrame (.next (s.rxByte slipEscEnd))

/-- RX_ESC_ESC, 0xDD: after ESC appends 0xDB (R191), otherwise an ordinary byte (R187, R190). -/
def execRxEscEsc (s : State) : Host.Outcome State Fault Refusal :=
  s.withFrame (.next (s.rxByte slipEscEsc))

/-- RX_OTHER: appended in IN_FRAME (R190), discarded in IDLE (R187), a bad escape in ESC_PENDING
(R192). -/
def execRxOther (b : Byte) (s : State) : Host.Outcome State Fault Refusal :=
  s.withFrame (.next (s.rxByte b))

end Sys2Proof.Machine
end

