-- ==== Sys2Proof/Machine/Dispatch.lean ====
section
/-! DEFINITION. The one dispatch: each instruction's own meaning. -/

namespace Sys2Proof.Machine

def exec (i : Instr) (s : State) : Host.Outcome State Fault Refusal :=
  match i with
  | .setmode m => Sys2Proof.Machine.execSetmode m s
  | .getmode => Sys2Proof.Machine.execGetmode s
  | .setdev p => Sys2Proof.Machine.execSetdev p s
  | .cancel => Sys2Proof.Machine.execCancel s
  | .rddiag => Sys2Proof.Machine.execRddiag s
  | .rxsig src => Sys2Proof.Machine.execRxsig src s
  | .drain => Sys2Proof.Machine.execDrain s
  | .send data => Sys2Proof.Machine.execSend data s
  | .slipBegin => Sys2Proof.Machine.execSlipBegin s
  | .slipByte b => Sys2Proof.Machine.execSlipByte b s
  | .slipEnd => Sys2Proof.Machine.execSlipEnd s
  | .slipRxbyte b => Sys2Proof.Machine.execSlipRxbyte b s
  | .romSync => Sys2Proof.Machine.execRomSync s
  | .romReadreg addr => Sys2Proof.Machine.execRomReadreg addr s
  | .romFbegin size off => Sys2Proof.Machine.execRomFbegin size off s
  | .romFdata seq data => Sys2Proof.Machine.execRomFdata seq data s
  | .romFend => Sys2Proof.Machine.execRomFend s
  | .romParse frame => Sys2Proof.Machine.execRomParse frame s
  | .flashBegin chk payload => Sys2Proof.Machine.execFlashBegin chk payload s
  | .flashData chk payload => Sys2Proof.Machine.execFlashData chk payload s
  | .flashEnd chk payload => Sys2Proof.Machine.execFlashEnd chk payload s
  | .sync chk payload => Sys2Proof.Machine.execSync chk payload s
  | .writeReg chk payload => Sys2Proof.Machine.execWriteReg chk payload s
  | .readReg chk payload => Sys2Proof.Machine.execReadReg chk payload s
  | .response rest => Sys2Proof.Machine.execResponse rest s
  | .rxEnd => Sys2Proof.Machine.execRxEnd s
  | .rxEsc => Sys2Proof.Machine.execRxEsc s
  | .rxEscEnd => Sys2Proof.Machine.execRxEscEnd s
  | .rxEscEsc => Sys2Proof.Machine.execRxEscEsc s
  | .rxOther b => Sys2Proof.Machine.execRxOther b s
  | .txEscEnd => Sys2Proof.Machine.execTxEscEnd s
  | .txEscEsc => Sys2Proof.Machine.execTxEscEsc s
  | .txLiteral b => Sys2Proof.Machine.execTxLiteral b s

end Sys2Proof.Machine
end

