-- ==== Sys2Proof/Machine/Environment.lean ====
section
/-! DEFINITION. The steps of the agents around the consumer: the DMA agent (spec/20_memory.md R64),
the interrupt agent (spec/60_exceptions.md R310, R311), and reset (spec/70_reset_and_hazards.md R340,
R341). -/

namespace Sys2Proof.Machine

/-- The DMA agent's write position (R64). -/
def State.dmaPos (s : State) : Nat := (s.cfg.rxCap - s.dmaRemaining) % s.cfg.rxCap

/-- The count after one more byte, before any reload (R64). A count of 0 is about to be reloaded
(R64: "the transient DMA_REMAINING = 0 before the reload"), so it counts as RX_CAP (log 16). -/
def State.dmaNextCount (s : State) : Nat :=
  (if s.dmaRemaining = 0 then s.cfg.rxCap else s.dmaRemaining) - 1

/-- `DMA_RX(b)` (R64): one atomic write of a received byte, the count, and the half-transfer and
transfer-complete interrupts. The agent takes no step before the transfer is configured (R341). -/
def State.dmaReceive (b : Byte) (s : State) : State :=
  if s.dmaActive = false then s
  else
    { s with
      rxbuf := s.rxbuf.write s.dmaPos b,
      dmaRemaining := if s.dmaNextCount = 0 then s.cfg.rxCap else s.dmaNextCount,
      irqHt := s.irqHt || decide (s.dmaPos + 1 = s.cfg.rxCap / 2),
      irqTc := s.irqTc || decide (s.dmaNextCount = 0) }

/-- The host configures the circular receive: write position 0 (R341, R342). -/
def State.dmaStart (s : State) : State :=
  { s with dmaActive := true, dmaRemaining := s.cfg.rxCap }

/-- Is a source pending and enabled? HT and TC always are enabled, IDLE by IDLE_IRQ_EN (R310,
R311). -/
def State.deliverable (src : IrqSource) (s : State) : Bool :=
  match src with
  | .ht => s.irqHt
  | .tc => s.irqTc
  | .idle => s.irqIdle && s.idleIrqEn

/-- `IRQ_src <- 0` (R311). -/
def State.clearIrq (src : IrqSource) (s : State) : State :=
  match src with
  | .ht => { s with irqHt := false }
  | .tc => { s with irqTc := false }
  | .idle => { s with irqIdle := false }

/-- The interrupt agent's step (R311): clear the source and run RXSIG. With nothing deliverable the
agent has no step to take (log 17). -/
def State.deliver (src : IrqSource) (s : State) : State :=
  if s.deliverable src = true then (s.clearIrq src).postToken.ret .ok 0 else s

/-- Reset (R340, R341): every element at its reset value, the logs kept and marked, DMA_REMAINING,
RXBUF and FRAME whatever the environment gives (log 18). -/
def State.hardReset (dmaRemaining : Nat) (ring frame : List Host.Cell) (s : State) : State :=
  { State.resetWith s.cfg (min dmaRemaining s.cfg.rxCap)
      (s.rxbuf.overlay s.cfg.rxCap ring) (s.frame.overlay frameCap frame) with
    txLog := s.txLog ++ [.resetMark], atLog := s.atLog ++ [.resetMark],
    cplLog := s.cplLog ++ [.resetMark],
    uartScript := s.uartScript, uartDraws := s.uartDraws, port := s.port }

/-- The step of an agent other than the consumer (R7, R311, R340). -/
def State.agentStep (a : AgentStep) (s : State) : State :=
  match a with
  | .dmaConfigure => s.dmaStart
  | .dmaRx b => s.dmaReceive b
  | .lineIdle => { s with irqIdle := true }
  | .dropIdle => if s.idleIrqEn = false then { s with irqIdle := false } else s
  | .deliver src => s.deliver src
  | .reset dmaRemaining ring frame => s.hardReset dmaRemaining ring frame

end Sys2Proof.Machine
end

