-- ==== Sys2Proof/Machine/Step.lean ====
section
/-! DEFINITION. One step of the machine: the next event of the port (spec/00_scope.md R7,
spec/20_memory.md R63, R66, spec/60_exceptions.md R320, R323). The block has no program counter and
fetches no stored program (spec/10_state.md R21); log 3 says how a program comes to run. -/

namespace Sys2Proof.Machine

/-- The port after the instruction at the head of a word is taken: the bytes after it stay, and are
the next operation on that port (R100; log 24). -/
def portAfterWord (ctx : Context) (fmt : Format) (rest : List Byte) (tail : List Event) : List Event :=
  if rest = [] then tail else .word ctx fmt rest :: tail

/-- Bytes that are no instruction of their format. A packet that is no response has the effect of
R242 on the response side (R96, A5 of 93); everything else is refused by name (R166; log 11, 13). -/
def rejectWord (ctx : Context) (e : DecodeError) (s : State) : Host.Outcome State Fault Refusal :=
  match e with
  | .unknownOp op => .refused (.unknownOp op)
  | .empty => .refused .incompleteWord
  | .truncated => .refused .incompleteWord
  | .notRequest direction => .refused (.notRequest direction)
  | .unlistedRequest opcode => .refused (.unlistedRequest opcode)
  | .notResponse packet =>
    if ctx = .consumer then .next (s.romParse packet) else .refused .wrongContext

/-- Take the instruction at the head of a word: decode it, check that its context may issue it
(R320), and run it. -/
def stepWord (ctx : Context) (fmt : Format) (bytes : List Byte) (tail : List Event) (s : State) :
    Host.Outcome State Fault Refusal :=
  match decode fmt bytes with
  | .error e => rejectWord ctx e { s with port := tail }
  | .ok (i, rest) =>
    if contextAllows ctx i = true then exec i { s with port := portAfterWord ctx fmt rest tail }
    else .refused .wrongContext

/-- One atomic step of one agent (R63). With nothing issued the consumer waits, and no state changes
(R323; log 21). -/
def step (s : State) : Host.Outcome State Fault Refusal :=
  match s.port with
  | [] => .next s
  | .agent a :: tail => .next ({ s with port := tail }.agentStep a)
  | .word ctx fmt bytes :: tail => stepWord ctx fmt bytes tail s

/-- The context that issues an operation (R320): RXSIG comes from the interrupt context. -/
def wordContext (fmt : Format) (bytes : List Byte) : Context :=
  if fmt = .hostOp ∧ bytes.head? = some 0x10#8 then .interrupt else .consumer

/-- A word of spec/opcode_table.json as an event, in the format and byte order `tableFormat` and
`tableBytes` give it (log 4, 5). -/
def tableEvent (nbits w : Nat) : Event :=
  .word (wordContext (tableFormat nbits w) (tableBytes nbits w)) (tableFormat nbits w)
    (tableBytes nbits w)

/-- The state with a word of spec/opcode_table.json as its next event (log 3). -/
def State.withFetchWord (s : State) (nbits w : Nat) : State :=
  { s with port := tableEvent nbits w :: s.port }

end Sys2Proof.Machine
end

