-- ==== Sys2Proof/Machine/Pseudo.lean ====
section
/-! DEFINITION. Running operations in issue order, and the pseudo-operations
(spec/30_encoding.md R104). -/

namespace Sys2Proof.Machine

/-- The last operation returned OK. -/
def State.resultOk (s : State) : Bool :=
  match s.result with
  | some r => decide (r.code = .ok)
  | none => false

/-- Issue operations in order, stopping at the first result other than OK (R104). -/
def runOps : List Instr → State → Host.Outcome State Fault Refusal
  | [], s => .next s
  | i :: rest, s =>
    match exec i s with
    | .next t => if t.resultOk = true then runOps rest t else .next t
    | .fault r => .fault r
    | .refused r => .refused r

/-- The pseudo-operations of R104. -/
inductive PseudoOp where
  | slipFrame (packet : List Byte)
  | rxfeed (bytes : List Byte)
  | enterFlashing
  | leaveFlashing
deriving DecidableEq, Repr

/-- The real operations a pseudo-operation stands for (R104); ENTER_FLASHING's depend on MODE. -/
def PseudoOp.expand (mode : Mode) : PseudoOp → List Instr
  | .slipFrame packet => [.slipBegin] ++ packet.map .slipByte ++ [.slipEnd]
  | .rxfeed bytes => bytes.map .slipRxbyte
  | .enterFlashing =>
    (if mode = .uninitialized then [.setdev 1#8, .setmode 1#8] else []) ++ [.setmode 2#8]
  | .leaveFlashing => [.cancel, .setmode 1#8]

/-- Run a pseudo-operation (R104). -/
def runPseudo (p : PseudoOp) (s : State) : Host.Outcome State Fault Refusal :=
  runOps (p.expand s.mode) s

end Sys2Proof.Machine
end

