-- ==== Sys2Proof/Safety.lean ====
section
/-! DEFINITION. The terms claims are stated in: the invariant of the block
(spec/10_state.md R22 to R37, spec/20_memory.md R60), what a safe step is, and a few shared readings
of a state. -/

namespace Sys2Proof.Machine

/-- The opcodes of the requests the block builds (R95, R228). -/
def builtOpcodes : List Byte := [0x02#8, 0x03#8, 0x04#8, 0x08#8, 0x0A#8]

/-- What holds of the block in every state it reaches. R37 numbers seven of these; the others are the
ranges of the registers (R5, R25, R26, R27, R29, R60) and what R33, R193, R228 and R183 say of
PEND_OP, RXF_TRUNC and the open frame. -/
structure Inv (s : State) : Prop where
  /-- The parameters are in their ranges (R5). -/
  params : s.cfg.valid
  /-- LAST_POS is an index of RXBUF (R25). -/
  lastPos : s.lastPos < s.cfg.rxCap
  /-- NQ_COUNT is at most NQ_DEPTH (R26). -/
  tokens : s.nqCount ≤ s.cfg.nqDepth
  /-- DMA_REMAINING is at most RX_CAP (R27). -/
  dmaCount : s.dmaRemaining ≤ s.cfg.rxCap
  /-- RXBUF is in canonical form. -/
  ringForm : s.rxbuf.wf
  /-- Every listed index of RXBUF exists (R60). -/
  ringWithin : s.rxbuf.within s.cfg.rxCap
  /-- FRAME is in canonical form. -/
  frameForm : s.frame.wf
  /-- Every listed index of FRAME exists (R60). -/
  frameWithin : s.frame.within frameCap
  /-- RXF_LEN is at most FRAME_CAP (R29). -/
  frameLen : s.rxfLen ≤ frameCap
  /-- R37 item 1. -/
  idleEmpty : s.rxfState = .idle → s.rxfLen = 0 ∧ s.rxfTrunc = false
  /-- R37 item 2. -/
  frameOpened : s.rxfState ≠ .idle → 1 ≤ s.rxfLen ∧ s.frame.read 0 = 0xC0#8
  /-- A truncated frame is full (R193, R240). -/
  truncFull : s.rxfTrunc = true → s.rxfLen = frameCap
  /-- R37 item 4. -/
  idleIrq : s.idleIrqEn = true ↔ s.mode = .running
  /-- R37 item 5. -/
  pendFlashing : s.pendAwait = true → s.mode = .flashing
  /-- TX_OPEN implies Flashing (R183). -/
  openFlashing : s.txOpen = true → s.mode = .flashing
  /-- R37 item 6. -/
  closedEmpty : s.txOpen = false → s.txPend = []
  /-- An open frame is a delimiter and escaped packet bytes (R182, R183). -/
  openEncoded : s.txOpen = true → ∃ p : List Byte, s.txPend = 0xC0#8 :: escAll p
  /-- R37 item 7 (its PEND_AWAIT and TX_OPEN parts follow from items 5 and `openFlashing`). -/
  unconfigured : s.mode = .uninitialized → s.lastPos = 0
  /-- An awaited request is one the block builds (R228, R33). -/
  pendBuilt : s.pendAwait = true → s.pendOp ∈ builtOpcodes

/-- A step that does not fault. -/
def faultFree (o : Host.Outcome State Fault Refusal) : Prop :=
  match o with
  | .fault _ => False
  | .next _ | .refused _ => True

/-- A ROM build may go out (R221): every check before the UART passes. -/
abbrev State.canBuild (s : State) : Prop :=
  s.devPresent = true ∧ s.mode = .flashing ∧ s.pendAwait = false ∧ s.txOpen = false

/-- The UART accepts a write of these bytes (R131). -/
abbrev State.accepts (s : State) (wire : List Byte) : Prop :=
  (s.uartReport wire.length).ok = true

/-- The state after an accepted write (R131, R137): the bytes on TXLOG, the draw spent, and the
result (OK, count). -/
def State.sentOk (wire : List Byte) (s : State) : State :=
  { (if wire = [] then s else s.spendDraw) with
    txLog := s.txLog ++ wire.map .item,
    result := some { code := .ok, value := wire.length } }

/-- The DMA agent receives a sequence of bytes, one `DMA_RX` each (R64). -/
def State.dmaReceiveAll (bs : List Byte) (s : State) : State :=
  bs.foldl (fun t b => t.dmaReceive b) s

/-- A function lays out 32-bit words as `word(v)` does: high byte first in BE, low byte first in LE
(R9, R61). -/
abbrev laysOutWords (order : WordOrder) (word : Word32 → List Byte) : Prop :=
  (order = .be → ∀ v, word v = [v.extractLsb' 24 8, v.extractLsb' 16 8, v.extractLsb' 8 8,
    v.extractLsb' 0 8]) ∧
  (order = .le → ∀ v, word v = [v.extractLsb' 0 8, v.extractLsb' 8 8, v.extractLsb' 16 8,
    v.extractLsb' 24 8])

/-- Nothing is undrained: the DMA write position is LAST_POS (R38, R135). -/
abbrev State.drained (s : State) : Prop := s.drainPos = s.lastPos

/-- A byte the deframer stores when an instruction runs: the delimiter that opens a frame (R186), an
ordinary byte (R190), or the byte an escape stands for (R191). -/
def storedByte (st : RxfState) (i : Instr) : Option Byte :=
  match st, i with
  | .idle, .rxEnd => some 0xC0#8
  | .inFrame, .rxEscEnd => some 0xDC#8
  | .inFrame, .rxEscEsc => some 0xDD#8
  | .inFrame, .rxOther b => some b
  | .escPending, .rxEscEnd => some 0xC0#8
  | .escPending, .rxEscEsc => some 0xDB#8
  | _, _ => none

/-- The request a ROM build operation makes: opcode, payload and checksum (R97, R223 to R227); none
for every other instruction, and for a block that ROM_FDATA refuses. -/
def buildRequest (cfg : Params) : Instr → Option (Byte × List Byte × Word32)
  | .romSync => some (0x08#8, syncPayload cfg, 0#32)
  | .romReadreg addr => some (0x0A#8, readRegPayload cfg addr, 0#32)
  | .romFbegin size off => some (0x02#8, flashBeginPayload cfg size off, 0#32)
  | .romFdata seq data =>
    if 1 ≤ data.length ∧ data.length ≤ cfg.flashBlockSize then
      some (0x03#8, flashDataPayload cfg seq data, fold cfg.chkSeed data)
    else none
  | .romFend => some (0x04#8, flashEndPayload cfg, 0#32)
  | .setmode _ | .getmode | .setdev _ | .cancel | .rddiag | .rxsig _ | .drain | .send _
  | .slipBegin | .slipByte _ | .slipEnd | .slipRxbyte _ | .romParse _ | .flashBegin _ _
  | .flashData _ _ | .flashEnd _ _ | .sync _ _ | .writeReg _ _ | .readReg _ _ | .response _
  | .rxEnd | .rxEsc | .rxEscEnd | .rxEscEsc | .rxOther _ | .txEscEnd | .txEscEsc
  | .txLiteral _ => none

/-- Two states that differ at most in the bytes of FRAME at RXF_LEN and beyond (R30). -/
def sameButStale (s t : State) : Prop :=
  t = { s with frame := t.frame } ∧ s.frame.wf ∧ t.frame.wf ∧
    ∀ k, k < s.rxfLen → s.frame.read k = t.frame.read k

/-- Outcomes that agree up to such bytes. -/
def sameOutcome (o o' : Host.Outcome State Fault Refusal) : Prop :=
  match o, o' with
  | .next s, .next t => sameButStale s t
  | .fault r, .fault r' => r = r'
  | .refused r, .refused r' => r = r'
  | _, _ => False

end Sys2Proof.Machine
end

