-- ==== Sys2Proof/Certificates/Slice0/Obligations.lean ====
section
/-! DEFINITION. The statements for the provers. A statement that gives an instruction's next state as
a record update of the state before says its frame too: every field the update does not name is
unchanged. -/

open Sys2Proof Sys2Proof.Machine

/-! ### Mode and control -/

/-- R160, R161: SETMODE's checks in their order, and the writes of every legal transition. -/
def Obligations.SetmodeFollowsTransitionTable : Prop :=
  ∀ (s : State) (m : Byte),
    (m ≠ 1#8 → m ≠ 2#8 →
      exec (.setmode m) s = .next { s with result := some ⟨.badArg, 0⟩ }) ∧
    (s.mode = .uninitialized →
      exec (.setmode 2#8) s = .next { s with result := some ⟨.illegalTransition, 0⟩ }) ∧
    (s.txOpen = true ∨ s.pendAwait = true →
      exec (.setmode 1#8) s = .next { s with result := some ⟨.busy, 0⟩ } ∧
      (s.mode ≠ .uninitialized →
        exec (.setmode 2#8) s = .next { s with result := some ⟨.busy, 0⟩ })) ∧
    (s.txOpen = false → s.pendAwait = false →
      exec (.setmode 1#8) s = .next { s with
        mode := .running, idleIrqEn := true,
        lastPos := if s.mode = .uninitialized then 0 else s.lastPos,
        result := some ⟨.ok, 0⟩ } ∧
      (s.mode = .running →
        exec (.setmode 2#8) s = .next { s with
          mode := .flashing, idleIrqEn := false, rxfState := .idle, rxfLen := 0,
          rxfTrunc := false, result := some ⟨.ok, 0⟩ }) ∧
      (s.mode = .flashing →
        exec (.setmode 2#8) s = .next { s with
          idleIrqEn := false, result := some ⟨.ok, 0⟩ }))

/-- R162: GETMODE, which any context may issue, returns the mode's encoding, writes nothing, and
never returns 3. -/
def Obligations.GetmodeReturnsModeEncoding : Prop :=
  encode .getmode = [0x02#8] ∧ (∀ ctx : Context, contextAllows ctx .getmode = true) ∧
  ∀ s : State, ∃ v : Nat, exec .getmode s = .next { s with result := some ⟨.ok, v⟩ } ∧
    v ≠ 3 ∧ (s.mode = .uninitialized ↔ v = 0) ∧ (s.mode = .running ↔ v = 1) ∧
    (s.mode = .flashing ↔ v = 2)

/-- R163: SETDEV writes DEV_PRESENT alone, and refuses every operand but 0 and 1. -/
def Obligations.SetdevWritesPresentFlagAlone : Prop :=
  ∀ (s : State) (p : Byte), encode (.setdev p) = [0x03#8, p] ∧
    exec (.setdev 0#8) s = .next { s with devPresent := false, result := some ⟨.ok, 0⟩ } ∧
    exec (.setdev 1#8) s = .next { s with devPresent := true, result := some ⟨.ok, 0⟩ } ∧
    (1 < p.toNat → exec (.setdev p) s = .next { s with result := some ⟨.badArg, 0⟩ })

/-- R164: CANCEL records a TIMEOUT for the awaiting request and clears it; with nothing awaiting it
writes nothing. -/
def Obligations.CancelTimesOutPendingRequest : Prop :=
  encode .cancel = [0x04#8] ∧ ∀ s : State,
    (s.pendAwait = true → exec .cancel s = .next { s with
      pendAwait := false,
      cplLog := s.cplLog ++ [.item ⟨.timeout, s.pendOp, 0#8, 0#32⟩],
      result := some ⟨.ok, 0⟩ }) ∧
    (s.pendAwait = false → exec .cancel s = .next { s with result := some ⟨.nothingPending, 0⟩ })

/-- R165: RDDIAG returns the DIAG bits, with bits 7 to 4 zero, and clears them; a second RDDIAG
returns 0. -/
def Obligations.RddiagReadsThenClears : Prop :=
  encode .rddiag = [0x05#8] ∧ ∀ s : State, ∃ t : State,
    exec .rddiag s = .next t ∧
    t = { s with diag := 0#4, result := some ⟨.ok, s.diag.toNat⟩ } ∧
    exec .rddiag t = .next { t with result := some ⟨.ok, 0⟩ }

/-- R166: an op code that R100 does not list is refused as UNKNOWN_OP, whatever stands after it (log
11). The other words that are no instruction: a packet on the response side without direction 0x01 is
malformed (R96, R242), and, by the model's choice (log 13), a word that ends early, a request packet
with another direction byte and one with an unlisted opcode are refused by name. -/
def Obligations.UnassignedOpCodeRefused : Prop :=
  ∀ (s : State) (ctx : Context) (tail : List Event),
    (∀ (op : Byte) (rest : List Byte), s.port = .word ctx .hostOp (op :: rest) :: tail →
      op ∉ [0x01#8, 0x02#8, 0x03#8, 0x04#8, 0x05#8, 0x10#8, 0x11#8, 0x12#8, 0x20#8, 0x21#8, 0x22#8,
        0x23#8, 0x30#8, 0x31#8, 0x32#8, 0x33#8, 0x34#8, 0x35#8] →
      step s = .refused (.unknownOp op) ∧
        Refusal.result (.unknownOp op) = some ⟨.unknownOp, 0⟩) ∧
    (∀ (i : Instr) (bytes : List Byte), s.port = .word ctx i.format bytes :: tail →
      i.wellFormed = true → i.format ≠ .romResponse → bytes <+: encode i → bytes ≠ encode i →
      step s = .refused .incompleteWord) ∧
    (∀ (op : Byte) (chk : Word32) (payload bytes : List Byte),
      s.port = .word ctx .romRequest bytes :: tail → payload.length < 65536 →
      bytes <+: requestPacket op payload chk → bytes ≠ requestPacket op payload chk →
      step s = .refused .incompleteWord) ∧
    (∀ (dir : Byte) (rest : List Byte), s.port = .word ctx .romRequest (dir :: rest) :: tail →
      dir ≠ 0x00#8 → step s = .refused (.notRequest dir)) ∧
    (∀ (op : Byte) (chk : Word32) (payload rest : List Byte),
      s.port = .word ctx .romRequest (requestPacket op payload chk ++ rest) :: tail →
      payload.length < 65536 → op ∉ [0x02#8, 0x03#8, 0x04#8, 0x08#8, 0x09#8, 0x0A#8] →
      step s = .refused (.unlistedRequest op)) ∧
    (∀ bytes : List Byte, s.port = .word ctx .romResponse bytes :: tail →
      bytes.head? ≠ some 0x01#8 →
      (ctx ≠ .consumer → step s = .refused .wrongContext) ∧
      (ctx = .consumer → s.pendAwait = true → step s = .next { s with
        port := tail, diag := s.diag ||| 4#4, pendAwait := false,
        cplLog := s.cplLog ++ [.item ⟨.protocol, s.pendOp, 0#8, 0#32⟩] }) ∧
      (ctx = .consumer → s.pendAwait = false → step s = .next { s with
        port := tail, diag := s.diag ||| 4#4 }))

/-! ### Byte source -/

/-- R130: RXSIG posts one token unless the queue is full, and re-arms the idle-line interrupt by the
mode; an operand above 2 is refused. -/
def Obligations.RxsigPostsTokenAndRearms : Prop :=
  ∀ (s : State) (src : Byte), encode (.rxsig src) = [0x10#8, src] ∧
    (2 < src.toNat → exec (.rxsig src) s = .next { s with result := some ⟨.badArg, 0⟩ }) ∧
    (src.toNat ≤ 2 → s.nqCount < s.cfg.nqDepth → exec (.rxsig src) s = .next { s with
      nqCount := s.nqCount + 1, idleIrqEn := decide (s.mode = .running),
      result := some ⟨.ok, 0⟩ }) ∧
    (src.toNat ≤ 2 → s.cfg.nqDepth ≤ s.nqCount → exec (.rxsig src) s = .next { s with
      idleIrqEn := decide (s.mode = .running), result := some ⟨.ok, 0⟩ })

/-- R132, R133: DRAIN spends a token in every outcome; it is refused without a device or a transport;
otherwise it moves LAST_POS to the write position and delivers the newly arrived bytes to the AT feed
in Running, to the deframer in Flashing. -/
def Obligations.DrainSpendsTokenAndRoutesByMode : Prop :=
  encode .drain = [0x11#8] ∧ ∀ s : State,
    (s.devPresent = false → exec .drain s = .next { s with
      nqCount := s.nqCount - 1, result := some ⟨.noDevice, 0⟩ }) ∧
    (s.devPresent = true → s.mode = .uninitialized → exec .drain s = .next { s with
      nqCount := s.nqCount - 1, result := some ⟨.notConfigured, 0⟩ }) ∧
    (s.devPresent = true → s.mode = .running → s.lastPos < s.cfg.rxCap →
      exec .drain s = .next { s with
        nqCount := s.nqCount - 1,
        lastPos := (s.cfg.rxCap - s.dmaRemaining) % s.cfg.rxCap,
        atLog := s.atLog ++ s.newBytes.map .item,
        result := some ⟨.ok, s.newBytes.length⟩ }) ∧
    (s.devPresent = true → s.mode = .flashing → s.lastPos < s.cfg.rxCap → s.rxfLen ≤ 128 →
      exec .drain s = .next { (s.rxBytes s.newBytes) with
        nqCount := s.nqCount - 1,
        lastPos := (s.cfg.rxCap - s.dmaRemaining) % s.cfg.rxCap,
        result := some ⟨.ok, s.newBytes.length⟩ })

/-- R135, R136: the newly arrived range from LAST_POS to the write position, in two sub-ranges where
it wraps, the older first, and its length. -/
def Obligations.NewBytesAreTheArrivedRange : Prop :=
  ∀ s : State, s.lastPos < s.cfg.rxCap → s.dmaRemaining ≤ s.cfg.rxCap →
    s.newBytes.length = (s.drainPos + s.cfg.rxCap - s.lastPos) % s.cfg.rxCap ∧
    (s.dmaRemaining = 0 → s.drainPos = 0) ∧ s.drainPos < s.cfg.rxCap ∧
    ∀ k, k < s.newBytes.length →
      s.newBytes[k]? = some (s.rxbuf.read ((s.lastPos + k) % s.cfg.rxCap))

/-- R137: SEND's checks in their order, and the raw bytes on the wire: all of them, or a strict
prefix when the UART fails. -/
def Obligations.SendWritesRawBytes : Prop :=
  ∀ (s : State) (data : List Byte),
    encode (.send data) = [0x12#8] ++ le16 (BitVec.ofNat 16 data.length) ++ data ∧
    (s.devPresent = false → exec (.send data) s = .next { s with result := some ⟨.noDevice, 0⟩ }) ∧
    (s.devPresent = true → s.mode = .uninitialized →
      exec (.send data) s = .next { s with result := some ⟨.notConfigured, 0⟩ }) ∧
    (s.devPresent = true → s.mode ≠ .uninitialized → s.txOpen = true →
      exec (.send data) s = .next { s with result := some ⟨.busy, 0⟩ }) ∧
    (s.devPresent = true → s.mode ≠ .uninitialized → s.txOpen = false →
      (data = [] → exec (.send data) s = .next { s with result := some ⟨.ok, 0⟩ }) ∧
      (s.accepts data → exec (.send data) s = .next (s.sentOk data)) ∧
      (¬ s.accepts data → ∃ k, k < data.length ∧ exec (.send data) s = .next { s.spendDraw with
        txLog := s.txLog ++ (data.take k).map .item, result := some ⟨.uartWriteFail, k⟩ }))

/-- R131: an empty write succeeds; any other is accepted whole or fails after a strict prefix, and
the model admits acceptance and a failure after every strict prefix. -/
def Obligations.UartWriteAdmitsEveryPrefix : Prop :=
  ∀ (s : State) (wire : List Byte),
    s.sendWire [] = { s with result := some ⟨.ok, 0⟩ } ∧ (wire ≠ [] →
    (s.sendWire wire = { s.spendDraw with
        txLog := s.txLog ++ wire.map .item, result := some ⟨.ok, wire.length⟩ } ∨
      ∃ k, k < wire.length ∧ s.sendWire wire = { s.spendDraw with
        txLog := s.txLog ++ (wire.take k).map .item, result := some ⟨.uartWriteFail, k⟩ }) ∧
    (∃ d : UartDraw, { s with uartScript := [d] }.sendWire wire = { s with
      uartScript := [], txLog := s.txLog ++ wire.map .item,
      result := some ⟨.ok, wire.length⟩ }) ∧
    ∀ k, k < wire.length → ∃ d : UartDraw, { s with uartScript := [d] }.sendWire wire = { s with
      uartScript := [], txLog := s.txLog ++ (wire.take k).map .item,
      result := some ⟨.uartWriteFail, k⟩ })

/-! ### Framer -/

/-- R182: SLIP_BEGIN opens a frame with its delimiter in Flashing, where none is open. -/
def Obligations.SlipBeginOpensFrame : Prop :=
  encode .slipBegin = [0x20#8] ∧ ∀ s : State,
    (s.mode ≠ .flashing → exec .slipBegin s = .next { s with result := some ⟨.sequencing, 0⟩ }) ∧
    (s.mode = .flashing → s.txOpen = true →
      exec .slipBegin s = .next { s with result := some ⟨.busy, 0⟩ }) ∧
    (s.mode = .flashing → s.txOpen = false → exec .slipBegin s = .next { s with
      txOpen := true, txPend := [0xC0#8], result := some ⟨.ok, 0⟩ })

/-- R183, R181: SLIP_BYTE, and (the model's reading of those rows, log 9) the framer's three byte
rows, append the byte or its two-byte escape to the open frame. -/
def Obligations.FramerAppendsEscapedByte : Prop :=
  ∀ (s : State) (b : Byte), encode (.slipByte b) = [0x21#8, b] ∧
    (s.txOpen = false →
      exec (.slipByte b) s = .next { s with result := some ⟨.sequencing, 0⟩ } ∧
      exec (txClass b) s = .next { s with result := some ⟨.sequencing, 0⟩ }) ∧
    (s.txOpen = true →
      exec (.slipByte 0xC0#8) s = .next { s with
        txPend := s.txPend ++ [0xDB#8, 0xDC#8], result := some ⟨.ok, 0⟩ } ∧
      exec .txEscEnd s = .next { s with
        txPend := s.txPend ++ [0xDB#8, 0xDC#8], result := some ⟨.ok, 0⟩ } ∧
      exec (.slipByte 0xDB#8) s = .next { s with
        txPend := s.txPend ++ [0xDB#8, 0xDD#8], result := some ⟨.ok, 0⟩ } ∧
      exec .txEscEsc s = .next { s with
        txPend := s.txPend ++ [0xDB#8, 0xDD#8], result := some ⟨.ok, 0⟩ } ∧
      (b ≠ 0xC0#8 → b ≠ 0xDB#8 →
        exec (.slipByte b) s = .next { s with
          txPend := s.txPend ++ [b], result := some ⟨.ok, 0⟩ } ∧
        exec (.txLiteral b) s = .next { s with
          txPend := s.txPend ++ [b], result := some ⟨.ok, 0⟩ }))

/-- R184: SLIP_END closes the frame in every outcome but SEQUENCING, and flushes it with its closing
delimiter if a device is present. -/
def Obligations.SlipEndFlushesFrame : Prop :=
  encode .slipEnd = [0x22#8] ∧ ∀ s : State,
    (s.txOpen = false → exec .slipEnd s = .next { s with result := some ⟨.sequencing, 0⟩ }) ∧
    (s.txOpen = true → s.devPresent = false → exec .slipEnd s = .next { s with
      txOpen := false, txPend := [], result := some ⟨.noDevice, 0⟩ }) ∧
    (s.txOpen = true → s.devPresent = true →
      (s.accepts (s.txPend ++ [0xC0#8]) → exec .slipEnd s = .next
        (({ s with txOpen := false, txPend := [] } : State).sentOk (s.txPend ++ [0xC0#8]))) ∧
      (¬ s.accepts (s.txPend ++ [0xC0#8]) → ∃ k, k < s.txPend.length + 1 ∧
        exec .slipEnd s = .next { s.spendDraw with
          txOpen := false, txPend := [],
          txLog := s.txLog ++ ((s.txPend ++ [0xC0#8]).take k).map .item,
          result := some ⟨.uartWriteFail, k⟩ }))

/-! ### Deframer -/

/-- R185: SLIP_RXBYTE is the received byte's transition in Flashing, and SEQUENCING elsewhere. -/
def Obligations.SlipRxbyteIsTheByteTransition : Prop :=
  ∀ (s : State) (b : Byte), encode (.slipRxbyte b) = [0x23#8, b] ∧
    (s.mode ≠ .flashing →
      exec (.slipRxbyte b) s = .next { s with result := some ⟨.sequencing, 0⟩ }) ∧
    (s.mode = .flashing → s.rxfLen ≤ 128 → ∃ t : State, exec (rxClass b) s = .next t ∧
      exec (.slipRxbyte b) s = .next { t with result := some ⟨.ok, 0⟩ })

/-- R187: outside a frame every byte but 0xC0 is discarded, and no state changes. -/
def Obligations.BytesOutsideFrameDiscarded : Prop :=
  ∀ (s : State) (b : Byte), s.rxfState = .idle → s.rxfLen ≤ 128 →
    exec .rxEsc s = .next s ∧ exec .rxEscEnd s = .next s ∧ exec .rxEscEsc s = .next s ∧
    (b ≠ 0xC0#8 → exec (.rxOther b) s = .next s)

/-- R186, R188, R190, R191: the transitions of the deframer inside its buffer's capacity that store a
byte or introduce an escape. -/
def Obligations.DeframerStoresAndEscapes : Prop :=
  ∀ (s : State) (b : Byte), s.rxfLen < 128 →
    (s.rxfState = .idle → exec .rxEnd s = .next { s with
      rxfState := .inFrame, frame := s.frame.write s.rxfLen 0xC0#8, rxfLen := s.rxfLen + 1 }) ∧
    (s.rxfState = .inFrame →
      exec .rxEsc s = .next { s with rxfState := .escPending } ∧
      exec .rxEscEnd s = .next { s with
        frame := s.frame.write s.rxfLen 0xDC#8, rxfLen := s.rxfLen + 1 } ∧
      exec .rxEscEsc s = .next { s with
        frame := s.frame.write s.rxfLen 0xDD#8, rxfLen := s.rxfLen + 1 } ∧
      (b ≠ 0xC0#8 → b ≠ 0xDB#8 → exec (.rxOther b) s = .next { s with
        frame := s.frame.write s.rxfLen b, rxfLen := s.rxfLen + 1 })) ∧
    (s.rxfState = .escPending →
      exec .rxEscEnd s = .next { s with
        rxfState := .inFrame, frame := s.frame.write s.rxfLen 0xC0#8, rxfLen := s.rxfLen + 1 } ∧
      exec .rxEscEsc s = .next { s with
        rxfState := .inFrame, frame := s.frame.write s.rxfLen 0xDB#8, rxfLen := s.rxfLen + 1 })

/-- R193: at capacity the byte is dropped, RXF_TRUNC and DIAG.OVF are set, and the transition still
happens. -/
def Obligations.FullFrameDropsBytes : Prop :=
  ∀ (s : State) (b : Byte), s.rxfLen = 128 →
    (s.rxfState = .inFrame →
      exec .rxEscEnd s = .next { s with rxfTrunc := true, diag := s.diag ||| 1#4 } ∧
      exec .rxEscEsc s = .next { s with rxfTrunc := true, diag := s.diag ||| 1#4 } ∧
      exec .rxEsc s = .next { s with rxfState := .escPending } ∧
      (b ≠ 0xC0#8 → b ≠ 0xDB#8 → exec (.rxOther b) s = .next { s with
        rxfTrunc := true, diag := s.diag ||| 1#4 })) ∧
    (s.rxfState = .escPending →
      exec .rxEscEnd s = .next { s with
        rxfState := .inFrame, rxfTrunc := true, diag := s.diag ||| 1#4 } ∧
      exec .rxEscEsc s = .next { s with
        rxfState := .inFrame, rxfTrunc := true, diag := s.diag ||| 1#4 })

/-- R62, R193: a byte the deframer stores is the byte at RXF_LEN, and every other byte of FRAME is
unchanged. -/
def Obligations.DeframerStoreTouchesOneByte : Prop :=
  ∀ (s : State) (i : Instr) (v : Byte), s.frame.wf → s.rxfLen < 128 →
    i.wellFormed = true → storedByte s.rxfState i = some v →
    ∃ t : State, exec i s = .next t ∧ t.rxfLen = s.rxfLen + 1 ∧
      t.frame.read s.rxfLen = v ∧ ∀ a, a ≠ s.rxfLen → t.frame.read a = s.frame.read a

/-- R189, R240: a closing 0xC0 hands off the packet between the delimiters and resets the deframer; a
closing 0xC0 that does not fit still does; back-to-back delimiters do not. -/
def Obligations.ClosingDelimiterHandsOff : Prop :=
  ∀ s : State, s.rxfState = .inFrame →
    (s.rxfLen = 1 → exec .rxEnd s = .next s) ∧
    (2 ≤ s.rxfLen → s.rxfLen < 128 → s.rxfTrunc = false → exec .rxEnd s = .next
      { (s.romParse (s.frame.slice 1 s.rxfLen)) with
        rxfState := .idle, rxfLen := 0, rxfTrunc := false,
        frame := s.frame.write s.rxfLen 0xC0#8 }) ∧
    (s.rxfLen = 128 → exec .rxEnd s = .next
      { (({ s with diag := s.diag ||| 1#4 } : State).romParse (s.frame.slice 1 128)) with
        rxfState := .idle, rxfLen := 0, rxfTrunc := false })

/-- R192: after an ESC any byte but 0xDC and 0xDD is a framing error: BADESC, the awaiting request
failed with FRAMING, the deframer reset, the byte consumed. -/
def Obligations.BadEscapeResetsDeframer : Prop :=
  ∀ (s : State) (i : Instr), s.rxfState = .escPending → s.rxfLen ≤ 128 → i.wellFormed = true →
    (i = .rxEnd ∨ i = .rxEsc ∨ ∃ b, i = .rxOther b) →
    (s.pendAwait = false → exec i s = .next { s with
      rxfState := .idle, rxfLen := 0, rxfTrunc := false, diag := s.diag ||| 2#4 }) ∧
    (s.pendAwait = true → exec i s = .next { s with
      rxfState := .idle, rxfLen := 0, rxfTrunc := false, diag := s.diag ||| 2#4,
      pendAwait := false, cplLog := s.cplLog ++ [.item ⟨.framing, s.pendOp, 0#8, 0#32⟩] })

/-- R37 item 3: the deframer is in ESC_PENDING only right after an 0xDB in IN_FRAME, which stores
nothing, and the next byte always leaves it. -/
def Obligations.EscPendingOnlyRightAfterEsc : Prop :=
  ∀ (s t : State) (b : Byte), exec (rxClass b) s = .next t →
    (t.rxfState = .escPending →
      b = 0xDB#8 ∧ s.rxfState = .inFrame ∧ t = { s with rxfState := .escPending }) ∧
    (s.rxfState = .escPending → t.rxfState ≠ .escPending)

/-- R25, R29, R60 (the model's fault, log 20): an index outside RXBUF or FRAME faults, before
anything is written. -/
def Obligations.AbsentIndexFaults : Prop :=
  ∀ (s : State) (b : Byte),
    (128 < s.rxfLen → exec (rxClass b) s = .fault (.frameIndex s.rxfLen) ∧
      (s.mode = .flashing → exec (.slipRxbyte b) s = .fault (.frameIndex s.rxfLen))) ∧
    (s.devPresent = true → s.mode ≠ .uninitialized → s.cfg.rxCap ≤ s.lastPos →
      exec .drain s = .fault (.rxbufIndex s.lastPos))

/-! ### ROM codec -/

/-- R223, R97: ROM_SYNC puts the SYNC frame on the wire and leaves 0x08 awaiting; so does the packet
it builds, run as a row of its own (the row's meaning is the model's choice, log 6). -/
def Obligations.SyncRequestGoesOut : Prop :=
  ∀ (s : State) (payload wire : List Byte), s.canBuild →
    payload = s.cfg.syncMarker ++ List.replicate 32 0x55#8 →
    wire = slipFrame ([0x00#8, 0x08#8] ++ le16 (BitVec.ofNat 16 payload.length) ++
      [0x00#8, 0x00#8, 0x00#8, 0x00#8] ++ payload) →
    s.accepts wire →
    exec .romSync s = .next { (s.sentOk wire) with pendAwait := true, pendOp := 0x08#8 } ∧
    exec (.sync 0#32 payload) s = .next { (s.sentOk wire) with
      pendAwait := true, pendOp := 0x08#8 }

/-- R224, R97: ROM_READREG sends the address, big-endian or little-endian as PAYLOAD_WORD_ORDER says
(R9, R61); so does the packet it builds, run as a row of its own (the row's meaning is the model's
choice, log 6). -/
def Obligations.ReadRegRequestGoesOut : Prop :=
  ∀ (s : State) (addr : Word32) (word wire : List Byte), s.canBuild →
    (s.cfg.wordOrder = .be → word = [addr.extractLsb' 24 8, addr.extractLsb' 16 8,
      addr.extractLsb' 8 8, addr.extractLsb' 0 8]) →
    (s.cfg.wordOrder = .le → word = [addr.extractLsb' 0 8, addr.extractLsb' 8 8,
      addr.extractLsb' 16 8, addr.extractLsb' 24 8]) →
    wire = slipFrame ([0x00#8, 0x0A#8, 0x04#8, 0x00#8, 0x00#8, 0x00#8, 0x00#8, 0x00#8] ++ word) →
    s.accepts wire →
    exec (.romReadreg addr) s = .next { (s.sentOk wire) with
      pendAwait := true, pendOp := 0x0A#8 } ∧
    exec (.readReg 0#32 word) s = .next { (s.sentOk wire) with
      pendAwait := true, pendOp := 0x0A#8 }

/-- R225, R97: ROM_FBEGIN sends four words in the payload's byte order (R9, R61), checksum 0; so does
the packet it builds, run as a row of its own (the row's meaning is the model's choice, log 6). -/
def Obligations.FlashBeginRequestGoesOut : Prop :=
  ∀ (s : State) (size off : Word32) (word : Word32 → List Byte) (payload wire : List Byte),
    s.canBuild → laysOutWords s.cfg.wordOrder word →
    payload = word size ++ word (BitVec.ofNat 32
        ((size.toNat + s.cfg.flashBlockSize - 1) / s.cfg.flashBlockSize)) ++
      word (BitVec.ofNat 32 s.cfg.flashBlockSize) ++ word off →
    wire = slipFrame ([0x00#8, 0x02#8, 0x10#8, 0x00#8, 0x00#8, 0x00#8, 0x00#8, 0x00#8] ++
      payload) →
    s.accepts wire →
    exec (.romFbegin size off) s = .next { (s.sentOk wire) with
      pendAwait := true, pendOp := 0x02#8 } ∧
    exec (.flashBegin 0#32 payload) s = .next { (s.sentOk wire) with
      pendAwait := true, pendOp := 0x02#8 }

/-- R226, R222, R97: ROM_FDATA sends the prefix words in the payload's byte order (R9, R61), the
padding and the block, with the block's fold as checksum, and refuses a block of no bytes or of more
than FLASH_BLOCK_SIZE; the packet it builds, run as a row of its own, goes out too (the row's meaning
is the model's choice, log 6). -/
def Obligations.FlashDataRequestGoesOut : Prop :=
  ∀ (s : State) (seq : Word32) (data : List Byte) (word : Word32 → List Byte)
    (payload wire : List Byte),
    (data.length < 1 ∨ s.cfg.flashBlockSize < data.length →
      exec (.romFdata seq data) s = .next { s with result := some ⟨.badArg, 0⟩ }) ∧
    (1 ≤ data.length → data.length ≤ s.cfg.flashBlockSize → s.canBuild →
      laysOutWords s.cfg.wordOrder word →
      payload = word (BitVec.ofNat 32 data.length) ++ word seq ++
        List.replicate s.cfg.dataPad 0x00#8 ++ data →
      wire = slipFrame ([0x00#8, 0x03#8] ++ le16 (BitVec.ofNat 16 payload.length) ++
        le32 (data.foldl (fun acc b => acc ^^^ b.setWidth 32) s.cfg.chkSeed) ++ payload) →
      s.accepts wire →
      exec (.romFdata seq data) s = .next { (s.sentOk wire) with
        pendAwait := true, pendOp := 0x03#8 } ∧
      exec (.flashData (data.foldl (fun acc b => acc ^^^ b.setWidth 32) s.cfg.chkSeed) payload) s =
        .next { (s.sentOk wire) with pendAwait := true, pendOp := 0x03#8 })

/-- R227, R97: ROM_FEND sends FEND_ARG in the payload's byte order (R9, R61), or nothing; so does the
packet it builds, run as a row of its own (the row's meaning is the model's choice, log 6). -/
def Obligations.FlashEndRequestGoesOut : Prop :=
  ∀ (s : State) (word : Word32 → List Byte) (payload wire : List Byte), s.canBuild →
    laysOutWords s.cfg.wordOrder word →
    payload = (if s.cfg.fendLen = 4 then word s.cfg.fendArg else []) →
    wire = slipFrame ([0x00#8, 0x04#8] ++ le16 (BitVec.ofNat 16 payload.length) ++
      [0x00#8, 0x00#8, 0x00#8, 0x00#8] ++ payload) →
    s.accepts wire →
    exec .romFend s = .next { (s.sentOk wire) with pendAwait := true, pendOp := 0x04#8 } ∧
    exec (.flashEnd 0#32 payload) s = .next { (s.sentOk wire) with
      pendAwait := true, pendOp := 0x04#8 }

/-- R221: every ROM build's checks in their order, its one write of the wire frame, a failure of
which leaves nothing awaiting, and the awaiting request otherwise. -/
def Obligations.BuildChecksInOrder : Prop :=
  ∀ (s : State) (i : Instr) (opcode : Byte) (payload : List Byte) (chk : Word32),
    buildRequest s.cfg i = some (opcode, payload, chk) →
    (s.devPresent = false → exec i s = .next { s with result := some ⟨.noDevice, 0⟩ }) ∧
    (s.devPresent = true → s.mode ≠ .flashing →
      exec i s = .next { s with result := some ⟨.sequencing, 0⟩ }) ∧
    (s.devPresent = true → s.mode = .flashing → s.pendAwait = true ∨ s.txOpen = true →
      exec i s = .next { s with result := some ⟨.busy, 0⟩ }) ∧
    (s.canBuild → s.accepts (requestFrame opcode payload chk) →
      exec i s = .next { (s.sentOk (requestFrame opcode payload chk)) with
        pendAwait := true, pendOp := opcode }) ∧
    (s.canBuild → ¬ s.accepts (requestFrame opcode payload chk) →
      ∃ k, k < (requestFrame opcode payload chk).length ∧
        exec i s = .next { s.spendDraw with
          txLog := s.txLog ++ ((requestFrame opcode payload chk).take k).map .item,
          result := some ⟨.uartWriteFail, k⟩ })

/-- The model's choice (log 6): a request packet with fields R97 does not give its opcode is refused
as BAD_ARG, and a request packet meets the checks of R221 exactly as the operation that builds it. -/
def Obligations.RequestPacketsAreTheBuilds : Prop :=
  ∀ (s : State) (i : Instr) (opcode : Byte) (payload : List Byte) (chk : Word32) (r : Instr),
    (buildRequest s.cfg i = some (opcode, payload, chk) →
      requestOf opcode chk payload = some r → exec r s = exec i s) ∧
    (requestOf opcode chk payload = some r → opcode ≠ 0x09#8 →
      (∀ j, buildRequest s.cfg j ≠ some (opcode, payload, chk)) →
      exec r s = .next { s with result := some ⟨.badArg, 0⟩ })

/-- R228: WRITE_REG has no builder, so (the model's stop, log 10) its packet is refused by name,
whatever it holds. -/
def Obligations.WriteRegHasNoBuilder : Prop :=
  ∀ (s : State) (chk : Word32) (payload : List Byte),
    exec (.writeReg chk payload) s = .refused .noBuilder

/-- R241, R242, R243, R244: what a response packet with direction 0x01 does: too short, late or
unmatched, failed by its status, too short for its value, or successful. -/
def Obligations.ResponseResolvesOrIsDiscarded : Prop :=
  ∀ (s : State) (rest p : List Byte), p = 0x01#8 :: rest →
    (p.length < s.cfg.statusOffset + 1 →
      (s.pendAwait = true → exec (.response rest) s = .next { s with
        diag := s.diag ||| 4#4, pendAwait := false,
        cplLog := s.cplLog ++ [.item ⟨.protocol, s.pendOp, 0#8, 0#32⟩] }) ∧
      (s.pendAwait = false → exec (.response rest) s = .next { s with
        diag := s.diag ||| 4#4 })) ∧
    (s.cfg.statusOffset + 1 ≤ p.length →
      (s.pendAwait = false ∨ p.getD 1 0#8 ≠ s.pendOp → exec (.response rest) s = .next { s with
        diag := s.diag ||| 8#4 }) ∧
      (s.pendAwait = true → p.getD 1 0#8 = s.pendOp →
        (p.getD s.cfg.statusOffset 0#8 ≠ 0#8 → exec (.response rest) s = .next { s with
          pendAwait := false, cplLog := s.cplLog ++
            [.item ⟨.statusFail, s.pendOp, p.getD s.cfg.statusOffset 0#8, 0#32⟩] }) ∧
        (p.getD s.cfg.statusOffset 0#8 = 0#8 →
          (s.pendOp = 0x0A#8 → p.length < s.cfg.valueOffset + 4 →
            exec (.response rest) s = .next { s with
              diag := s.diag ||| 4#4, pendAwait := false,
              cplLog := s.cplLog ++ [.item ⟨.protocol, 0x0A#8, 0#8, 0#32⟩] }) ∧
          (s.pendOp = 0x0A#8 → s.cfg.valueOffset + 4 ≤ p.length →
            exec (.response rest) s = .next { s with
              pendAwait := false, cplLog := s.cplLog ++ [.item ⟨.ok, 0x0A#8, 0#8,
                (p.getD (s.cfg.valueOffset + 3) 0#8 ++ p.getD (s.cfg.valueOffset + 2) 0#8 ++
                  p.getD (s.cfg.valueOffset + 1) 0#8 ++ p.getD s.cfg.valueOffset 0#8 :
                  BitVec 32)⟩] }) ∧
          (s.pendOp ≠ 0x0A#8 → exec (.response rest) s = .next { s with
            pendAwait := false,
            cplLog := s.cplLog ++ [.item ⟨.ok, s.pendOp, 0#8, 0#32⟩] }))))

/-- R245: ROM_PARSE's checks; a frame whose packet has direction 0x01 is parsed as that response, any
other is malformed. -/
def Obligations.RomParseHandsOffItsFrame : Prop :=
  ∀ (s : State) (frame p rest : List Byte),
    encode (.romParse frame) = [0x35#8, BitVec.ofNat 8 frame.length] ++ frame ∧
    (frame.length < 2 ∨ 128 < frame.length ∨ frame.head? ≠ some 0xC0#8 ∨
        frame.getLast? ≠ some 0xC0#8 →
      exec (.romParse frame) s = .next { s with result := some ⟨.badArg, 0⟩ }) ∧
    (frame = 0xC0#8 :: (p ++ [0xC0#8]) → frame.length ≤ 128 →
      (s.mode ≠ .flashing →
        exec (.romParse frame) s = .next { s with result := some ⟨.sequencing, 0⟩ }) ∧
      (s.mode = .flashing → p = 0x01#8 :: rest → ∃ t : State,
        exec (.response rest) s = .next t ∧
        exec (.romParse frame) s = .next { t with result := some ⟨.ok, 0⟩ }) ∧
      (s.mode = .flashing → p.head? ≠ some 0x01#8 →
        (s.pendAwait = true → exec (.romParse frame) s = .next { s with
          diag := s.diag ||| 4#4, pendAwait := false,
          cplLog := s.cplLog ++ [.item ⟨.protocol, s.pendOp, 0#8, 0#32⟩],
          result := some ⟨.ok, 0⟩ }) ∧
        (s.pendAwait = false → exec (.romParse frame) s = .next { s with
          diag := s.diag ||| 4#4, result := some ⟨.ok, 0⟩ })))

/-! ### Agents, reset, and the step -/

/-- R64: the DMA agent's step: one byte written at the write position and no other, the count, the
half-transfer and transfer-complete interrupts, and the circular reload. R341 (held in DMA_ACTIVE, log
16): the agent takes no step until the host configures the transfer, which then runs with
DMA_REMAINING = RX_CAP, write position 0; a count of 0 is about to be reloaded. -/
def Obligations.DmaByteWriteStep : Prop :=
  ∀ (s : State) (b : Byte) (tail : List Event),
    (s.port = .agent (.dmaRx b) :: tail →
      (s.dmaActive = true → s.rxbuf.wf → 1 ≤ s.dmaRemaining → s.dmaRemaining ≤ s.cfg.rxCap →
        ∃ t : State, step s = .next t ∧
          t = { s with
            port := tail, rxbuf := t.rxbuf,
            dmaRemaining := if s.dmaRemaining = 1 then s.cfg.rxCap else s.dmaRemaining - 1,
            irqHt := s.irqHt ||
              decide ((s.cfg.rxCap - s.dmaRemaining) % s.cfg.rxCap + 1 = s.cfg.rxCap / 2),
            irqTc := s.irqTc || decide (s.dmaRemaining = 1) } ∧
          t.rxbuf.read ((s.cfg.rxCap - s.dmaRemaining) % s.cfg.rxCap) = b ∧
          ∀ a, a ≠ (s.cfg.rxCap - s.dmaRemaining) % s.cfg.rxCap →
            t.rxbuf.read a = s.rxbuf.read a) ∧
      (s.dmaActive = true → s.dmaRemaining = 0 →
        step s = step { s with dmaRemaining := s.cfg.rxCap }) ∧
      (s.dmaActive = false → step s = .next { s with port := tail })) ∧
    (s.port = .agent .dmaConfigure :: tail → ∃ t : State, step s = .next t ∧
      t = { s with port := tail, dmaActive := true, dmaRemaining := s.cfg.rxCap } ∧
      t.dmaPos = 0)

/-- R310, R311: a pending source that is enabled is delivered as RXSIG and its pending bit cleared;
IDLE is enabled by IDLE_IRQ_EN alone, and stays pending while disabled. A source that cannot be
delivered has no step (log 17). The line sets IRQ_IDLE at any time, and a pending one may be dropped
while it is disabled. -/
def Obligations.InterruptDeliveryRunsRxsig : Prop :=
  ∀ (s : State) (src : IrqSource) (tail : List Event),
    (s.port = .agent (.deliver src) :: tail →
      (src = .ht → s.irqHt = true →
        step s = exec (.rxsig 0#8) { s with port := tail, irqHt := false }) ∧
      (src = .tc → s.irqTc = true →
        step s = exec (.rxsig 1#8) { s with port := tail, irqTc := false }) ∧
      (src = .idle → s.irqIdle = true → s.idleIrqEn = true →
        step s = exec (.rxsig 2#8) { s with port := tail, irqIdle := false }) ∧
      (src = .ht → s.irqHt = false → step s = .next { s with port := tail }) ∧
      (src = .tc → s.irqTc = false → step s = .next { s with port := tail }) ∧
      (src = .idle → s.irqIdle = false ∨ s.idleIrqEn = false →
        step s = .next { s with port := tail })) ∧
    (s.port = .agent .lineIdle :: tail →
      step s = .next { s with port := tail, irqIdle := true }) ∧
    (s.port = .agent .dropIdle :: tail →
      (s.idleIrqEn = false → step s = .next { s with port := tail, irqIdle := false }) ∧
      (s.idleIrqEn = true → step s = .next { s with port := tail }))

/-- R340, R341: a reset puts every element into its reset value, keeps the logs and marks them,
clears the pending interrupts and stops the DMA agent. That it keeps the parameters and the events
still to come is the model's choice (log 18). -/
def Obligations.ResetPutsEveryElement : Prop :=
  ∀ (s : State) (rem : Nat) (ring frame : List Host.Cell) (tail : List Event),
    s.port = .agent (.reset rem ring frame) :: tail → ∃ t : State, step s = .next t ∧
      t.mode = .uninitialized ∧ t.idleIrqEn = false ∧ t.devPresent = false ∧
      t.lastPos = 0 ∧ t.nqCount = 0 ∧ t.rxfState = .idle ∧ t.rxfLen = 0 ∧ t.rxfTrunc = false ∧
      t.txOpen = false ∧ t.txPend = [] ∧ t.pendAwait = false ∧ t.pendOp = 0x00#8 ∧
      t.diag = 0#4 ∧ t.txLog = s.txLog ++ [.resetMark] ∧ t.atLog = s.atLog ++ [.resetMark] ∧
      t.cplLog = s.cplLog ++ [.resetMark] ∧ t.irqHt = false ∧ t.irqTc = false ∧
      t.irqIdle = false ∧ t.dmaActive = false ∧ t.cfg = s.cfg ∧ t.port = tail

/-- R7, R63, R320: when the bytes at the head of the port decode to an instruction that their context
may issue, the step is that instruction's, run with the port moved past it; from another context it
is refused. RXSIG is the interrupt context's alone, and every other instruction but GETMODE the
consumer's alone (R320; log 12). That the bytes left over stay at the head of the port, as the next
word, is the model's choice (log 24). With nothing issued the step changes nothing (R323). -/
def Obligations.StepRunsDecodedInstruction : Prop :=
  ∀ (s : State) (ctx : Context) (fmt : Format) (bytes rest : List Byte) (tail : List Event)
    (i : Instr),
    (s.port = .word ctx fmt bytes :: tail → decode fmt bytes = .ok (i, rest) →
      (contextAllows ctx i = true → step s = exec i { s with
        port := if rest = [] then tail else .word ctx fmt rest :: tail }) ∧
      (contextAllows ctx i = false → step s = .refused .wrongContext)) ∧
    (∀ src : Byte, contextAllows ctx (.rxsig src) = true ↔ ctx = .interrupt) ∧
    contextAllows ctx .getmode = true ∧
    (i ≠ .getmode → (∀ src : Byte, i ≠ .rxsig src) →
      (contextAllows ctx i = true ↔ ctx = .consumer)) ∧
    (s.port = [] → step s = .next s)

/-- R100, R101, R92, R94: words written out from the encodings decode to the instructions they stand
for. -/
def Obligations.SampleWordsDecode : Prop :=
  decode .hostOp [0x31#8, 0xDB#8, 0xC0#8, 0x00#8, 0x00#8] =
    .ok (.romReadreg 0x0000C0DB#32, []) ∧
  decode .hostOp [0x33#8, 0x02#8, 0x00#8, 0x00#8, 0x00#8, 0x03#8, 0x00#8, 0x11#8, 0x22#8, 0x33#8] =
    .ok (.romFdata 2#32 [0x11#8, 0x22#8, 0x33#8], []) ∧
  decode .hostOp [0x12#8, 0x01#8, 0x00#8, 0x41#8, 0x11#8] = .ok (.send [0x41#8], [0x11#8]) ∧
  decode .hostOp [0x10#8, 0x02#8] = .ok (.rxsig 2#8, []) ∧
  decode .romRequest [0x00#8, 0x0A#8, 0x04#8, 0x00#8, 0x00#8, 0x00#8, 0x00#8, 0x00#8, 0x3F#8,
    0xF0#8, 0x00#8, 0x50#8] = .ok (.readReg 0#32 [0x3F#8, 0xF0#8, 0x00#8, 0x50#8], []) ∧
  decode .romResponse [0x01#8, 0x08#8, 0x00#8] = .ok (.response [0x08#8, 0x00#8], []) ∧
  decode .rxByte [0xDC#8] = .ok (.rxEscEnd, []) ∧
  decode .txByte [0xDB#8] = .ok (.txEscEsc, [])

/-! ### Encoding -/

/-- R91, R92, R94, R95, R100, R101, R181: decoding the encoding of a well-formed instruction gives it
back, with every operand at every value, and leaves the bytes after it. A response packet has no
length that the block reads (R98), so it is all of its bytes. -/
def Obligations.DecodeOfEncodeIsIdentity : Prop :=
  ∀ (i : Instr) (rest : List Byte), i.wellFormed = true →
    (i.format = .romResponse → rest = []) →
    decode i.format (encode i ++ rest) = .ok (i, rest)

/-- R92, R98, R100, R101: whatever decodes is well-formed, of its port's format, and encodes to the
bytes it was read from: each word has one meaning, and no bit of it is dropped. -/
def Obligations.EncodeOfDecodeIsIdentity : Prop :=
  ∀ (fmt : Format) (bytes rest : List Byte) (i : Instr), decode fmt bytes = .ok (i, rest) →
    i.format = fmt ∧ i.wellFormed = true ∧ encode i ++ rest = bytes

/-! ### Invariants and rules of the whole machine -/

/-- R340, R341, R37: the invariant holds right after reset, whatever reset leaves unspecified. -/
def Obligations.InvariantHoldsAtReset : Prop :=
  Inv State.reset ∧
  ∀ (cfg : Params) (rem : Nat) (rxbuf frame : Memory), cfg.valid → rem ≤ cfg.rxCap →
    rxbuf.wf → rxbuf.within cfg.rxCap → frame.wf → frame.within frameCap →
    Inv (State.resetWith cfg rem rxbuf frame)

/-- R37 and the register ranges: every step keeps the invariant. -/
def Obligations.StepKeepsInvariant : Prop :=
  ∀ s t : State, Inv s → step s = .next t → Inv t

/-- R25, R29, R60: no step from a state of the invariant faults. -/
def Obligations.StepNeverFaultsUnderInvariant : Prop :=
  ∀ s : State, Inv s → faultFree (step s)

/-- R22, R160, R161: no operation but SETMODE changes MODE, SETMODE changes it to the mode its
operand names, by a legal transition, and nothing leads back to Uninitialized. -/
def Obligations.OnlySetmodeChangesMode : Prop :=
  ∀ (s t : State) (i : Instr), exec i s = .next t → t.mode ≠ s.mode →
    t.mode ≠ .uninitialized ∧
    ((i = .setmode 1#8 ∧ t.mode = .running) ∨
      (i = .setmode 2#8 ∧ t.mode = .flashing ∧ s.mode = .running))

/-- R35, R340: the output logs only grow, in every step, and the parameters never change. -/
def Obligations.LogsAreAppendOnly : Prop :=
  ∀ s t : State, step s = .next t →
    t.cfg = s.cfg ∧ s.txLog <+: t.txLog ∧ s.atLog <+: t.atLog ∧ s.cplLog <+: t.cplLog

/-- R303: an operation that ends with an error, but for the exceptions R302 names, changes nothing
but the result. -/
def Obligations.FailingOperationChangesNothing : Prop :=
  ∀ (s t : State) (i : Instr) (r : OpResult), exec i s = .next t →
    i.format ≠ .rxByte → i.format ≠ .romResponse → i ≠ .drain → i ≠ .slipEnd →
    t.result = some r → r.code ≠ .ok → r.code ≠ .uartWriteFail →
    t = { s with result := some r }

/-- R244: a completion record is appended exactly when the awaiting request is resolved; it is one
record, and it names PEND_OP. -/
def Obligations.OneCompletionPerRequest : Prop :=
  ∀ (s t : State) (i : Instr), exec i s = .next t →
    (t.cplLog = s.cplLog ∧ (s.pendAwait = true → t.pendAwait = true)) ∨
    (∃ c : Completion, t.cplLog = s.cplLog ++ [.item c] ∧ c.op = s.pendOp ∧
      s.pendAwait = true ∧ t.pendAwait = false)

/-- R30: the bytes of FRAME at RXF_LEN and beyond are never read: two states that differ in them
alone stay so under every instruction, and nothing else tells them apart. -/
def Obligations.StaleFrameBytesAreNeverRead : Prop :=
  ∀ (s t : State) (i : Instr), sameButStale s t → sameOutcome (exec i s) (exec i t)

/-! ### SLIP and checksum properties -/

/-- R196: the deframer, fed the wire frame of a packet, hands off the packet cut at 127 bytes, with
no overflow up to 126; an empty packet is not handed off. -/
def Obligations.SlipRoundTrip : Prop :=
  ∀ (s : State) (p : List Byte), s.rxfState = .idle → s.rxfLen = 0 → s.rxfTrunc = false →
    s.frame.wf →
    (p = [] → s.rxBytes (slipFrame p) = { s with
      rxfState := .inFrame, rxfLen := 1, frame := s.frame.write 0 0xC0#8 }) ∧
    (1 ≤ p.length → ∃ m : Memory, s.rxBytes (slipFrame p) =
      { (({ s with diag := if p.length ≤ 126 then s.diag else s.diag ||| 1#4 } : State).romParse
          (p.take 127)) with frame := m })

/-- R90, R98, R99: a wire frame is two delimiters, one byte for each packet byte and one more for
each byte that is escaped; no delimiter stands inside it. -/
def Obligations.WireFrameShape : Prop :=
  ∀ p : List Byte,
    (slipFrame p).length = 2 + p.length + (p.countP fun b => b == 0xC0#8 || b == 0xDB#8) ∧
    (slipFrame p).head? = some 0xC0#8 ∧ (slipFrame p).getLast? = some 0xC0#8 ∧
    0xC0#8 ∉ ((slipFrame p).drop 1).dropLast

/-- R247, R222: the fold of no bytes is the seed; it changes with any single byte of the block,
ignores the order of its bytes and a change of two bytes by one difference, and keeps bits 31 to 8 of
the seed. -/
def Obligations.ChecksumProperties : Prop :=
  ∀ (seed : Word32) (a b d d' : List Byte) (x y z : Byte), fold seed [] = seed ∧
    fold seed (a ++ [x] ++ b ++ [y] ++ d) = fold seed (a ++ [x ^^^ z] ++ b ++ [y ^^^ z] ++ d) ∧
    (fold seed (a ++ [x] ++ b) = fold seed (a ++ [y] ++ b) ↔ x = y) ∧
    (d.Perm d' → fold seed d = fold seed d') ∧
    (fold seed d).extractLsb' 8 24 = seed.extractLsb' 8 24

/-- R104, R90: SLIP_FRAME puts the wire frame of its bytes on TXLOG, when the UART accepts it. -/
def Obligations.SlipFramePseudoSendsFrame : Prop :=
  ∀ (s : State) (p : List Byte), s.devPresent = true → s.mode = .flashing → s.txOpen = false →
    s.accepts (slipFrame p) →
    runPseudo (.slipFrame p) s =
      .next (({ s with txPend := [] } : State).sentOk (slipFrame p))

/-- R104: ENTER_FLASHING and LEAVE_FLASHING from every mode, with a frame open or a request awaiting
and without: each stops at its first operation that is not OK. -/
def Obligations.FlashingPseudoOpsSwitchMode : Prop :=
  ∀ s : State,
    (s.txOpen = true ∨ s.pendAwait = true →
      (s.mode = .uninitialized → runPseudo .enterFlashing s = .next { s with
        devPresent := true, result := some ⟨.busy, 0⟩ }) ∧
      (s.mode ≠ .uninitialized → runPseudo .enterFlashing s = .next { s with
        result := some ⟨.busy, 0⟩ })) ∧
    (s.txOpen = false → s.pendAwait = false →
      (s.mode = .uninitialized → runPseudo .enterFlashing s = .next { s with
        devPresent := true, mode := .flashing, idleIrqEn := false, lastPos := 0,
        rxfState := .idle, rxfLen := 0, rxfTrunc := false, result := some ⟨.ok, 0⟩ }) ∧
      (s.mode = .running → runPseudo .enterFlashing s = .next { s with
        mode := .flashing, idleIrqEn := false,
        rxfState := .idle, rxfLen := 0, rxfTrunc := false, result := some ⟨.ok, 0⟩ }) ∧
      (s.mode = .flashing → runPseudo .enterFlashing s = .next { s with
        idleIrqEn := false, result := some ⟨.ok, 0⟩ })) ∧
    (s.pendAwait = false → runPseudo .leaveFlashing s = .next { s with
      result := some ⟨.nothingPending, 0⟩ }) ∧
    (s.pendAwait = true → s.txOpen = true → runPseudo .leaveFlashing s = .next { s with
      pendAwait := false,
      cplLog := s.cplLog ++ [.item ⟨.timeout, s.pendOp, 0#8, 0#32⟩],
      result := some ⟨.busy, 0⟩ }) ∧
    (s.pendAwait = true → s.txOpen = false → runPseudo .leaveFlashing s = .next { s with
      mode := .running, idleIrqEn := true, pendAwait := false,
      lastPos := if s.mode = .uninitialized then 0 else s.lastPos,
      cplLog := s.cplLog ++ [.item ⟨.timeout, s.pendOp, 0#8, 0#32⟩],
      result := some ⟨.ok, 0⟩ })

/-- R221: a ROM build puts on the wire what SLIP_BEGIN, SLIP_BYTE for each packet byte and SLIP_END
put there, as one operation, and records the request if the write succeeded. -/
def Obligations.RomBuildIsOneSlipFrame : Prop :=
  ∀ (s : State) (i : Instr) (opcode : Byte) (payload : List Byte) (chk : Word32),
    s.canBuild → s.txPend = [] → buildRequest s.cfg i = some (opcode, payload, chk) →
    ∃ t : State, runPseudo (.slipFrame (requestPacket opcode payload chk)) s = .next t ∧
      exec i s = .next (if s.accepts (requestFrame opcode payload chk) then
        { t with pendAwait := true, pendOp := opcode } else t)

/-! ### The receive path -/

/-- R68, R136, R355: after fewer than RX_CAP bytes have arrived since everything was drained, one
DRAIN delivers exactly those bytes, in order. -/
def Obligations.DrainDeliversWhatArrived : Prop :=
  ∀ (s u : State) (bs : List Byte), Inv s → s.drained → s.dmaActive = true →
    s.devPresent = true → bs.length < s.cfg.rxCap → u = s.dmaReceiveAll bs →
    (s.mode = .running → exec .drain u = .next { u with
      nqCount := s.nqCount - 1, lastPos := (s.lastPos + bs.length) % s.cfg.rxCap,
      atLog := s.atLog ++ bs.map .item, result := some ⟨.ok, bs.length⟩ }) ∧
    (s.mode = .flashing → exec .drain u = .next { (u.rxBytes bs) with
      nqCount := s.nqCount - 1, lastPos := (s.lastPos + bs.length) % s.cfg.rxCap,
      result := some ⟨.ok, bs.length⟩ })

/-- R195: how DRAIN splits the received bytes does not matter to the deframer: two drains around a
split leave what one drain of all the bytes leaves, but for the tokens and the result. -/
def Obligations.DrainSplitDoesNotMatter : Prop :=
  ∀ (s : State) (a b : List Byte), Inv s → s.drained → s.dmaActive = true →
    s.devPresent = true → s.mode = .flashing → (a ++ b).length < s.cfg.rxCap →
    ∃ t₁ t₂ t₃ : State, exec .drain (s.dmaReceiveAll (a ++ b)) = .next t₁ ∧
      exec .drain (s.dmaReceiveAll a) = .next t₂ ∧ exec .drain (t₂.dmaReceiveAll b) = .next t₃ ∧
      t₃ = { t₁ with nqCount := t₃.nqCount, result := t₃.result }

/-- R136, R350: a ring overrun is not detected: after any number of arrivals since everything was
drained, the bytes a drain would deliver number that count modulo RX_CAP. -/
def Obligations.OverrunDeliversModuloCapacity : Prop :=
  ∀ (s : State) (bs : List Byte), Inv s → s.drained → s.dmaActive = true →
    (s.dmaReceiveAll bs).newBytes.length = bs.length % s.cfg.rxCap

/-- R63 (d): a second DRAIN with no byte arrived in between delivers nothing, and changes nothing but
NQ_COUNT and the result. -/
def Obligations.DrainIsIdempotent : Prop :=
  ∀ s : State, s.devPresent = true → s.mode ≠ .uninitialized → s.lastPos < s.cfg.rxCap →
    s.rxfLen ≤ 128 → ∃ t : State, exec .drain s = .next t ∧
      exec .drain t = .next { t with nqCount := t.nqCount - 1, result := some ⟨.ok, 0⟩ }

/-- R312: the order in which two interrupts are delivered cannot be observed. -/
def Obligations.InterruptOrderIsUnobservable : Prop :=
  ∀ (s : State) (a b : IrqSource), (s.idleIrqEn = true ↔ s.mode = .running) →
    (s.deliver a).deliver b = (s.deliver b).deliver a

/-- R310, R311, R351: in Flashing an idle line makes no wake-up: under the invariant, its delivery
changes nothing. -/
def Obligations.NoIdleWakeUpInFlashing : Prop :=
  ∀ s : State, Inv s → s.mode = .flashing →
    ({ s with irqIdle := true } : State).deliver .idle = { s with irqIdle := true }
end

