-- ==== Sys2Proof/Laws/State.lean ====
section
/-! SUPPORT. What each field of State holds after each named update: one lemma per field and update,
so that no proof unfolds a record update. -/

namespace Sys2Proof.Machine

variable (s : State)

/-! ### State.ret -/

@[simp] theorem State.ret_cfg (c : ResultCode) (v : Nat) : (s.ret c v).cfg = s.cfg := rfl
@[simp] theorem State.ret_mode (c : ResultCode) (v : Nat) : (s.ret c v).mode = s.mode := rfl
@[simp] theorem State.ret_idleIrqEn (c : ResultCode) (v : Nat) : (s.ret c v).idleIrqEn = s.idleIrqEn :=
  rfl
@[simp] theorem State.ret_devPresent (c : ResultCode) (v : Nat) : (s.ret c v).devPresent = s.devPresent :=
  rfl
@[simp] theorem State.ret_lastPos (c : ResultCode) (v : Nat) : (s.ret c v).lastPos = s.lastPos :=
  rfl
@[simp] theorem State.ret_nqCount (c : ResultCode) (v : Nat) : (s.ret c v).nqCount = s.nqCount :=
  rfl
@[simp] theorem State.ret_dmaRemaining (c : ResultCode) (v : Nat) : (s.ret c v).dmaRemaining = s.dmaRemaining :=
  rfl
@[simp] theorem State.ret_dmaActive (c : ResultCode) (v : Nat) : (s.ret c v).dmaActive = s.dmaActive :=
  rfl
@[simp] theorem State.ret_irqHt (c : ResultCode) (v : Nat) : (s.ret c v).irqHt = s.irqHt := rfl
@[simp] theorem State.ret_irqTc (c : ResultCode) (v : Nat) : (s.ret c v).irqTc = s.irqTc := rfl
@[simp] theorem State.ret_irqIdle (c : ResultCode) (v : Nat) : (s.ret c v).irqIdle = s.irqIdle :=
  rfl
@[simp] theorem State.ret_rxbuf (c : ResultCode) (v : Nat) : (s.ret c v).rxbuf = s.rxbuf := rfl
@[simp] theorem State.ret_rxfState (c : ResultCode) (v : Nat) : (s.ret c v).rxfState = s.rxfState :=
  rfl
@[simp] theorem State.ret_rxfLen (c : ResultCode) (v : Nat) : (s.ret c v).rxfLen = s.rxfLen := rfl
@[simp] theorem State.ret_frame (c : ResultCode) (v : Nat) : (s.ret c v).frame = s.frame := rfl
@[simp] theorem State.ret_rxfTrunc (c : ResultCode) (v : Nat) : (s.ret c v).rxfTrunc = s.rxfTrunc :=
  rfl
@[simp] theorem State.ret_txOpen (c : ResultCode) (v : Nat) : (s.ret c v).txOpen = s.txOpen := rfl
@[simp] theorem State.ret_txPend (c : ResultCode) (v : Nat) : (s.ret c v).txPend = s.txPend := rfl
@[simp] theorem State.ret_pendAwait (c : ResultCode) (v : Nat) : (s.ret c v).pendAwait = s.pendAwait :=
  rfl
@[simp] theorem State.ret_pendOp (c : ResultCode) (v : Nat) : (s.ret c v).pendOp = s.pendOp := rfl
@[simp] theorem State.ret_diag (c : ResultCode) (v : Nat) : (s.ret c v).diag = s.diag := rfl
@[simp] theorem State.ret_txLog (c : ResultCode) (v : Nat) : (s.ret c v).txLog = s.txLog := rfl
@[simp] theorem State.ret_atLog (c : ResultCode) (v : Nat) : (s.ret c v).atLog = s.atLog := rfl
@[simp] theorem State.ret_cplLog (c : ResultCode) (v : Nat) : (s.ret c v).cplLog = s.cplLog := rfl
@[simp] theorem State.ret_result (c : ResultCode) (v : Nat) : (s.ret c v).result = some { code := c, value := v } :=
  rfl
@[simp] theorem State.ret_uartScript (c : ResultCode) (v : Nat) : (s.ret c v).uartScript = s.uartScript :=
  rfl
@[simp] theorem State.ret_uartDraws (c : ResultCode) (v : Nat) : (s.ret c v).uartDraws = s.uartDraws :=
  rfl
@[simp] theorem State.ret_port (c : ResultCode) (v : Nat) : (s.ret c v).port = s.port := rfl

/-! ### State.raise -/

@[simp] theorem State.raise_cfg (c : ResultCode) : (s.raise c).cfg = s.cfg := rfl
@[simp] theorem State.raise_mode (c : ResultCode) : (s.raise c).mode = s.mode := rfl
@[simp] theorem State.raise_idleIrqEn (c : ResultCode) : (s.raise c).idleIrqEn = s.idleIrqEn := rfl
@[simp] theorem State.raise_devPresent (c : ResultCode) : (s.raise c).devPresent = s.devPresent :=
  rfl
@[simp] theorem State.raise_lastPos (c : ResultCode) : (s.raise c).lastPos = s.lastPos := rfl
@[simp] theorem State.raise_nqCount (c : ResultCode) : (s.raise c).nqCount = s.nqCount := rfl
@[simp] theorem State.raise_dmaRemaining (c : ResultCode) : (s.raise c).dmaRemaining = s.dmaRemaining :=
  rfl
@[simp] theorem State.raise_dmaActive (c : ResultCode) : (s.raise c).dmaActive = s.dmaActive := rfl
@[simp] theorem State.raise_irqHt (c : ResultCode) : (s.raise c).irqHt = s.irqHt := rfl
@[simp] theorem State.raise_irqTc (c : ResultCode) : (s.raise c).irqTc = s.irqTc := rfl
@[simp] theorem State.raise_irqIdle (c : ResultCode) : (s.raise c).irqIdle = s.irqIdle := rfl
@[simp] theorem State.raise_rxbuf (c : ResultCode) : (s.raise c).rxbuf = s.rxbuf := rfl
@[simp] theorem State.raise_rxfState (c : ResultCode) : (s.raise c).rxfState = s.rxfState := rfl
@[simp] theorem State.raise_rxfLen (c : ResultCode) : (s.raise c).rxfLen = s.rxfLen := rfl
@[simp] theorem State.raise_frame (c : ResultCode) : (s.raise c).frame = s.frame := rfl
@[simp] theorem State.raise_rxfTrunc (c : ResultCode) : (s.raise c).rxfTrunc = s.rxfTrunc := rfl
@[simp] theorem State.raise_txOpen (c : ResultCode) : (s.raise c).txOpen = s.txOpen := rfl
@[simp] theorem State.raise_txPend (c : ResultCode) : (s.raise c).txPend = s.txPend := rfl
@[simp] theorem State.raise_pendAwait (c : ResultCode) : (s.raise c).pendAwait = s.pendAwait := rfl
@[simp] theorem State.raise_pendOp (c : ResultCode) : (s.raise c).pendOp = s.pendOp := rfl
@[simp] theorem State.raise_diag (c : ResultCode) : (s.raise c).diag = s.diag := rfl
@[simp] theorem State.raise_txLog (c : ResultCode) : (s.raise c).txLog = s.txLog := rfl
@[simp] theorem State.raise_atLog (c : ResultCode) : (s.raise c).atLog = s.atLog := rfl
@[simp] theorem State.raise_cplLog (c : ResultCode) : (s.raise c).cplLog = s.cplLog := rfl
@[simp] theorem State.raise_result (c : ResultCode) : (s.raise c).result = some { code := c, value := 0 } :=
  rfl
@[simp] theorem State.raise_uartScript (c : ResultCode) : (s.raise c).uartScript = s.uartScript :=
  rfl
@[simp] theorem State.raise_uartDraws (c : ResultCode) : (s.raise c).uartDraws = s.uartDraws := rfl
@[simp] theorem State.raise_port (c : ResultCode) : (s.raise c).port = s.port := rfl

/-! ### State.setDiag -/

@[simp] theorem State.setDiag_cfg (b : BitVec 4) : (s.setDiag b).cfg = s.cfg := rfl
@[simp] theorem State.setDiag_mode (b : BitVec 4) : (s.setDiag b).mode = s.mode := rfl
@[simp] theorem State.setDiag_idleIrqEn (b : BitVec 4) : (s.setDiag b).idleIrqEn = s.idleIrqEn :=
  rfl
@[simp] theorem State.setDiag_devPresent (b : BitVec 4) : (s.setDiag b).devPresent = s.devPresent :=
  rfl
@[simp] theorem State.setDiag_lastPos (b : BitVec 4) : (s.setDiag b).lastPos = s.lastPos := rfl
@[simp] theorem State.setDiag_nqCount (b : BitVec 4) : (s.setDiag b).nqCount = s.nqCount := rfl
@[simp] theorem State.setDiag_dmaRemaining (b : BitVec 4) : (s.setDiag b).dmaRemaining = s.dmaRemaining :=
  rfl
@[simp] theorem State.setDiag_dmaActive (b : BitVec 4) : (s.setDiag b).dmaActive = s.dmaActive :=
  rfl
@[simp] theorem State.setDiag_irqHt (b : BitVec 4) : (s.setDiag b).irqHt = s.irqHt := rfl
@[simp] theorem State.setDiag_irqTc (b : BitVec 4) : (s.setDiag b).irqTc = s.irqTc := rfl
@[simp] theorem State.setDiag_irqIdle (b : BitVec 4) : (s.setDiag b).irqIdle = s.irqIdle := rfl
@[simp] theorem State.setDiag_rxbuf (b : BitVec 4) : (s.setDiag b).rxbuf = s.rxbuf := rfl
@[simp] theorem State.setDiag_rxfState (b : BitVec 4) : (s.setDiag b).rxfState = s.rxfState := rfl
@[simp] theorem State.setDiag_rxfLen (b : BitVec 4) : (s.setDiag b).rxfLen = s.rxfLen := rfl
@[simp] theorem State.setDiag_frame (b : BitVec 4) : (s.setDiag b).frame = s.frame := rfl
@[simp] theorem State.setDiag_rxfTrunc (b : BitVec 4) : (s.setDiag b).rxfTrunc = s.rxfTrunc := rfl
@[simp] theorem State.setDiag_txOpen (b : BitVec 4) : (s.setDiag b).txOpen = s.txOpen := rfl
@[simp] theorem State.setDiag_txPend (b : BitVec 4) : (s.setDiag b).txPend = s.txPend := rfl
@[simp] theorem State.setDiag_pendAwait (b : BitVec 4) : (s.setDiag b).pendAwait = s.pendAwait :=
  rfl
@[simp] theorem State.setDiag_pendOp (b : BitVec 4) : (s.setDiag b).pendOp = s.pendOp := rfl
@[simp] theorem State.setDiag_diag (b : BitVec 4) : (s.setDiag b).diag = s.diag ||| b := rfl
@[simp] theorem State.setDiag_txLog (b : BitVec 4) : (s.setDiag b).txLog = s.txLog := rfl
@[simp] theorem State.setDiag_atLog (b : BitVec 4) : (s.setDiag b).atLog = s.atLog := rfl
@[simp] theorem State.setDiag_cplLog (b : BitVec 4) : (s.setDiag b).cplLog = s.cplLog := rfl
@[simp] theorem State.setDiag_result (b : BitVec 4) : (s.setDiag b).result = s.result := rfl
@[simp] theorem State.setDiag_uartScript (b : BitVec 4) : (s.setDiag b).uartScript = s.uartScript :=
  rfl
@[simp] theorem State.setDiag_uartDraws (b : BitVec 4) : (s.setDiag b).uartDraws = s.uartDraws :=
  rfl
@[simp] theorem State.setDiag_port (b : BitVec 4) : (s.setDiag b).port = s.port := rfl

/-! ### State.emitTx -/

@[simp] theorem State.emitTx_cfg (bs : List Byte) : (s.emitTx bs).cfg = s.cfg := rfl
@[simp] theorem State.emitTx_mode (bs : List Byte) : (s.emitTx bs).mode = s.mode := rfl
@[simp] theorem State.emitTx_idleIrqEn (bs : List Byte) : (s.emitTx bs).idleIrqEn = s.idleIrqEn :=
  rfl
@[simp] theorem State.emitTx_devPresent (bs : List Byte) : (s.emitTx bs).devPresent = s.devPresent :=
  rfl
@[simp] theorem State.emitTx_lastPos (bs : List Byte) : (s.emitTx bs).lastPos = s.lastPos := rfl
@[simp] theorem State.emitTx_nqCount (bs : List Byte) : (s.emitTx bs).nqCount = s.nqCount := rfl
@[simp] theorem State.emitTx_dmaRemaining (bs : List Byte) : (s.emitTx bs).dmaRemaining = s.dmaRemaining :=
  rfl
@[simp] theorem State.emitTx_dmaActive (bs : List Byte) : (s.emitTx bs).dmaActive = s.dmaActive :=
  rfl
@[simp] theorem State.emitTx_irqHt (bs : List Byte) : (s.emitTx bs).irqHt = s.irqHt := rfl
@[simp] theorem State.emitTx_irqTc (bs : List Byte) : (s.emitTx bs).irqTc = s.irqTc := rfl
@[simp] theorem State.emitTx_irqIdle (bs : List Byte) : (s.emitTx bs).irqIdle = s.irqIdle := rfl
@[simp] theorem State.emitTx_rxbuf (bs : List Byte) : (s.emitTx bs).rxbuf = s.rxbuf := rfl
@[simp] theorem State.emitTx_rxfState (bs : List Byte) : (s.emitTx bs).rxfState = s.rxfState := rfl
@[simp] theorem State.emitTx_rxfLen (bs : List Byte) : (s.emitTx bs).rxfLen = s.rxfLen := rfl
@[simp] theorem State.emitTx_frame (bs : List Byte) : (s.emitTx bs).frame = s.frame := rfl
@[simp] theorem State.emitTx_rxfTrunc (bs : List Byte) : (s.emitTx bs).rxfTrunc = s.rxfTrunc := rfl
@[simp] theorem State.emitTx_txOpen (bs : List Byte) : (s.emitTx bs).txOpen = s.txOpen := rfl
@[simp] theorem State.emitTx_txPend (bs : List Byte) : (s.emitTx bs).txPend = s.txPend := rfl
@[simp] theorem State.emitTx_pendAwait (bs : List Byte) : (s.emitTx bs).pendAwait = s.pendAwait :=
  rfl
@[simp] theorem State.emitTx_pendOp (bs : List Byte) : (s.emitTx bs).pendOp = s.pendOp := rfl
@[simp] theorem State.emitTx_diag (bs : List Byte) : (s.emitTx bs).diag = s.diag := rfl
@[simp] theorem State.emitTx_txLog (bs : List Byte) : (s.emitTx bs).txLog = s.txLog ++ bs.map .item :=
  rfl
@[simp] theorem State.emitTx_atLog (bs : List Byte) : (s.emitTx bs).atLog = s.atLog := rfl
@[simp] theorem State.emitTx_cplLog (bs : List Byte) : (s.emitTx bs).cplLog = s.cplLog := rfl
@[simp] theorem State.emitTx_result (bs : List Byte) : (s.emitTx bs).result = s.result := rfl
@[simp] theorem State.emitTx_uartScript (bs : List Byte) : (s.emitTx bs).uartScript = s.uartScript :=
  rfl
@[simp] theorem State.emitTx_uartDraws (bs : List Byte) : (s.emitTx bs).uartDraws = s.uartDraws :=
  rfl
@[simp] theorem State.emitTx_port (bs : List Byte) : (s.emitTx bs).port = s.port := rfl

/-! ### State.feedAt -/

@[simp] theorem State.feedAt_cfg (bs : List Byte) : (s.feedAt bs).cfg = s.cfg := rfl
@[simp] theorem State.feedAt_mode (bs : List Byte) : (s.feedAt bs).mode = s.mode := rfl
@[simp] theorem State.feedAt_idleIrqEn (bs : List Byte) : (s.feedAt bs).idleIrqEn = s.idleIrqEn :=
  rfl
@[simp] theorem State.feedAt_devPresent (bs : List Byte) : (s.feedAt bs).devPresent = s.devPresent :=
  rfl
@[simp] theorem State.feedAt_lastPos (bs : List Byte) : (s.feedAt bs).lastPos = s.lastPos := rfl
@[simp] theorem State.feedAt_nqCount (bs : List Byte) : (s.feedAt bs).nqCount = s.nqCount := rfl
@[simp] theorem State.feedAt_dmaRemaining (bs : List Byte) : (s.feedAt bs).dmaRemaining = s.dmaRemaining :=
  rfl
@[simp] theorem State.feedAt_dmaActive (bs : List Byte) : (s.feedAt bs).dmaActive = s.dmaActive :=
  rfl
@[simp] theorem State.feedAt_irqHt (bs : List Byte) : (s.feedAt bs).irqHt = s.irqHt := rfl
@[simp] theorem State.feedAt_irqTc (bs : List Byte) : (s.feedAt bs).irqTc = s.irqTc := rfl
@[simp] theorem State.feedAt_irqIdle (bs : List Byte) : (s.feedAt bs).irqIdle = s.irqIdle := rfl
@[simp] theorem State.feedAt_rxbuf (bs : List Byte) : (s.feedAt bs).rxbuf = s.rxbuf := rfl
@[simp] theorem State.feedAt_rxfState (bs : List Byte) : (s.feedAt bs).rxfState = s.rxfState := rfl
@[simp] theorem State.feedAt_rxfLen (bs : List Byte) : (s.feedAt bs).rxfLen = s.rxfLen := rfl
@[simp] theorem State.feedAt_frame (bs : List Byte) : (s.feedAt bs).frame = s.frame := rfl
@[simp] theorem State.feedAt_rxfTrunc (bs : List Byte) : (s.feedAt bs).rxfTrunc = s.rxfTrunc := rfl
@[simp] theorem State.feedAt_txOpen (bs : List Byte) : (s.feedAt bs).txOpen = s.txOpen := rfl
@[simp] theorem State.feedAt_txPend (bs : List Byte) : (s.feedAt bs).txPend = s.txPend := rfl
@[simp] theorem State.feedAt_pendAwait (bs : List Byte) : (s.feedAt bs).pendAwait = s.pendAwait :=
  rfl
@[simp] theorem State.feedAt_pendOp (bs : List Byte) : (s.feedAt bs).pendOp = s.pendOp := rfl
@[simp] theorem State.feedAt_diag (bs : List Byte) : (s.feedAt bs).diag = s.diag := rfl
@[simp] theorem State.feedAt_txLog (bs : List Byte) : (s.feedAt bs).txLog = s.txLog := rfl
@[simp] theorem State.feedAt_atLog (bs : List Byte) : (s.feedAt bs).atLog = s.atLog ++ bs.map .item :=
  rfl
@[simp] theorem State.feedAt_cplLog (bs : List Byte) : (s.feedAt bs).cplLog = s.cplLog := rfl
@[simp] theorem State.feedAt_result (bs : List Byte) : (s.feedAt bs).result = s.result := rfl
@[simp] theorem State.feedAt_uartScript (bs : List Byte) : (s.feedAt bs).uartScript = s.uartScript :=
  rfl
@[simp] theorem State.feedAt_uartDraws (bs : List Byte) : (s.feedAt bs).uartDraws = s.uartDraws :=
  rfl
@[simp] theorem State.feedAt_port (bs : List Byte) : (s.feedAt bs).port = s.port := rfl

/-! ### State.resolve -/

@[simp] theorem State.resolve_cfg (c : CompletionCode) (o st : Byte) (v : Word32) : (s.resolve c o st v).cfg = s.cfg :=
  rfl
@[simp] theorem State.resolve_mode (c : CompletionCode) (o st : Byte) (v : Word32) : (s.resolve c o st v).mode = s.mode :=
  rfl
@[simp] theorem State.resolve_idleIrqEn (c : CompletionCode) (o st : Byte) (v : Word32) : (s.resolve c o st v).idleIrqEn = s.idleIrqEn :=
  rfl
@[simp] theorem State.resolve_devPresent (c : CompletionCode) (o st : Byte) (v : Word32) : (s.resolve c o st v).devPresent = s.devPresent :=
  rfl
@[simp] theorem State.resolve_lastPos (c : CompletionCode) (o st : Byte) (v : Word32) : (s.resolve c o st v).lastPos = s.lastPos :=
  rfl
@[simp] theorem State.resolve_nqCount (c : CompletionCode) (o st : Byte) (v : Word32) : (s.resolve c o st v).nqCount = s.nqCount :=
  rfl
@[simp] theorem State.resolve_dmaRemaining (c : CompletionCode) (o st : Byte) (v : Word32) : (s.resolve c o st v).dmaRemaining = s.dmaRemaining :=
  rfl
@[simp] theorem State.resolve_dmaActive (c : CompletionCode) (o st : Byte) (v : Word32) : (s.resolve c o st v).dmaActive = s.dmaActive :=
  rfl
@[simp] theorem State.resolve_irqHt (c : CompletionCode) (o st : Byte) (v : Word32) : (s.resolve c o st v).irqHt = s.irqHt :=
  rfl
@[simp] theorem State.resolve_irqTc (c : CompletionCode) (o st : Byte) (v : Word32) : (s.resolve c o st v).irqTc = s.irqTc :=
  rfl
@[simp] theorem State.resolve_irqIdle (c : CompletionCode) (o st : Byte) (v : Word32) : (s.resolve c o st v).irqIdle = s.irqIdle :=
  rfl
@[simp] theorem State.resolve_rxbuf (c : CompletionCode) (o st : Byte) (v : Word32) : (s.resolve c o st v).rxbuf = s.rxbuf :=
  rfl
@[simp] theorem State.resolve_rxfState (c : CompletionCode) (o st : Byte) (v : Word32) : (s.resolve c o st v).rxfState = s.rxfState :=
  rfl
@[simp] theorem State.resolve_rxfLen (c : CompletionCode) (o st : Byte) (v : Word32) : (s.resolve c o st v).rxfLen = s.rxfLen :=
  rfl
@[simp] theorem State.resolve_frame (c : CompletionCode) (o st : Byte) (v : Word32) : (s.resolve c o st v).frame = s.frame :=
  rfl
@[simp] theorem State.resolve_rxfTrunc (c : CompletionCode) (o st : Byte) (v : Word32) : (s.resolve c o st v).rxfTrunc = s.rxfTrunc :=
  rfl
@[simp] theorem State.resolve_txOpen (c : CompletionCode) (o st : Byte) (v : Word32) : (s.resolve c o st v).txOpen = s.txOpen :=
  rfl
@[simp] theorem State.resolve_txPend (c : CompletionCode) (o st : Byte) (v : Word32) : (s.resolve c o st v).txPend = s.txPend :=
  rfl
@[simp] theorem State.resolve_pendAwait (c : CompletionCode) (o st : Byte) (v : Word32) : (s.resolve c o st v).pendAwait = false :=
  rfl
@[simp] theorem State.resolve_pendOp (c : CompletionCode) (o st : Byte) (v : Word32) : (s.resolve c o st v).pendOp = s.pendOp :=
  rfl
@[simp] theorem State.resolve_diag (c : CompletionCode) (o st : Byte) (v : Word32) : (s.resolve c o st v).diag = s.diag :=
  rfl
@[simp] theorem State.resolve_txLog (c : CompletionCode) (o st : Byte) (v : Word32) : (s.resolve c o st v).txLog = s.txLog :=
  rfl
@[simp] theorem State.resolve_atLog (c : CompletionCode) (o st : Byte) (v : Word32) : (s.resolve c o st v).atLog = s.atLog :=
  rfl
@[simp] theorem State.resolve_cplLog (c : CompletionCode) (o st : Byte) (v : Word32) : (s.resolve c o st v).cplLog = s.cplLog ++ [.item { code := c, op := o, status := st, value := v }] :=
  rfl
@[simp] theorem State.resolve_result (c : CompletionCode) (o st : Byte) (v : Word32) : (s.resolve c o st v).result = s.result :=
  rfl
@[simp] theorem State.resolve_uartScript (c : CompletionCode) (o st : Byte) (v : Word32) : (s.resolve c o st v).uartScript = s.uartScript :=
  rfl
@[simp] theorem State.resolve_uartDraws (c : CompletionCode) (o st : Byte) (v : Word32) : (s.resolve c o st v).uartDraws = s.uartDraws :=
  rfl
@[simp] theorem State.resolve_port (c : CompletionCode) (o st : Byte) (v : Word32) : (s.resolve c o st v).port = s.port :=
  rfl

/-! ### State.deframerReset -/

@[simp] theorem State.deframerReset_cfg : s.deframerReset.cfg = s.cfg := rfl
@[simp] theorem State.deframerReset_mode : s.deframerReset.mode = s.mode := rfl
@[simp] theorem State.deframerReset_idleIrqEn : s.deframerReset.idleIrqEn = s.idleIrqEn := rfl
@[simp] theorem State.deframerReset_devPresent : s.deframerReset.devPresent = s.devPresent := rfl
@[simp] theorem State.deframerReset_lastPos : s.deframerReset.lastPos = s.lastPos := rfl
@[simp] theorem State.deframerReset_nqCount : s.deframerReset.nqCount = s.nqCount := rfl
@[simp] theorem State.deframerReset_dmaRemaining : s.deframerReset.dmaRemaining = s.dmaRemaining :=
  rfl
@[simp] theorem State.deframerReset_dmaActive : s.deframerReset.dmaActive = s.dmaActive := rfl
@[simp] theorem State.deframerReset_irqHt : s.deframerReset.irqHt = s.irqHt := rfl
@[simp] theorem State.deframerReset_irqTc : s.deframerReset.irqTc = s.irqTc := rfl
@[simp] theorem State.deframerReset_irqIdle : s.deframerReset.irqIdle = s.irqIdle := rfl
@[simp] theorem State.deframerReset_rxbuf : s.deframerReset.rxbuf = s.rxbuf := rfl
@[simp] theorem State.deframerReset_rxfState : s.deframerReset.rxfState = .idle := rfl
@[simp] theorem State.deframerReset_rxfLen : s.deframerReset.rxfLen = 0 := rfl
@[simp] theorem State.deframerReset_frame : s.deframerReset.frame = s.frame := rfl
@[simp] theorem State.deframerReset_rxfTrunc : s.deframerReset.rxfTrunc = false := rfl
@[simp] theorem State.deframerReset_txOpen : s.deframerReset.txOpen = s.txOpen := rfl
@[simp] theorem State.deframerReset_txPend : s.deframerReset.txPend = s.txPend := rfl
@[simp] theorem State.deframerReset_pendAwait : s.deframerReset.pendAwait = s.pendAwait := rfl
@[simp] theorem State.deframerReset_pendOp : s.deframerReset.pendOp = s.pendOp := rfl
@[simp] theorem State.deframerReset_diag : s.deframerReset.diag = s.diag := rfl
@[simp] theorem State.deframerReset_txLog : s.deframerReset.txLog = s.txLog := rfl
@[simp] theorem State.deframerReset_atLog : s.deframerReset.atLog = s.atLog := rfl
@[simp] theorem State.deframerReset_cplLog : s.deframerReset.cplLog = s.cplLog := rfl
@[simp] theorem State.deframerReset_result : s.deframerReset.result = s.result := rfl
@[simp] theorem State.deframerReset_uartScript : s.deframerReset.uartScript = s.uartScript := rfl
@[simp] theorem State.deframerReset_uartDraws : s.deframerReset.uartDraws = s.uartDraws := rfl
@[simp] theorem State.deframerReset_port : s.deframerReset.port = s.port := rfl

/-! ### State.takeToken -/

@[simp] theorem State.takeToken_cfg : s.takeToken.cfg = s.cfg := rfl
@[simp] theorem State.takeToken_mode : s.takeToken.mode = s.mode := rfl
@[simp] theorem State.takeToken_idleIrqEn : s.takeToken.idleIrqEn = s.idleIrqEn := rfl
@[simp] theorem State.takeToken_devPresent : s.takeToken.devPresent = s.devPresent := rfl
@[simp] theorem State.takeToken_lastPos : s.takeToken.lastPos = s.lastPos := rfl
@[simp] theorem State.takeToken_nqCount : s.takeToken.nqCount = s.nqCount - 1 := rfl
@[simp] theorem State.takeToken_dmaRemaining : s.takeToken.dmaRemaining = s.dmaRemaining := rfl
@[simp] theorem State.takeToken_dmaActive : s.takeToken.dmaActive = s.dmaActive := rfl
@[simp] theorem State.takeToken_irqHt : s.takeToken.irqHt = s.irqHt := rfl
@[simp] theorem State.takeToken_irqTc : s.takeToken.irqTc = s.irqTc := rfl
@[simp] theorem State.takeToken_irqIdle : s.takeToken.irqIdle = s.irqIdle := rfl
@[simp] theorem State.takeToken_rxbuf : s.takeToken.rxbuf = s.rxbuf := rfl
@[simp] theorem State.takeToken_rxfState : s.takeToken.rxfState = s.rxfState := rfl
@[simp] theorem State.takeToken_rxfLen : s.takeToken.rxfLen = s.rxfLen := rfl
@[simp] theorem State.takeToken_frame : s.takeToken.frame = s.frame := rfl
@[simp] theorem State.takeToken_rxfTrunc : s.takeToken.rxfTrunc = s.rxfTrunc := rfl
@[simp] theorem State.takeToken_txOpen : s.takeToken.txOpen = s.txOpen := rfl
@[simp] theorem State.takeToken_txPend : s.takeToken.txPend = s.txPend := rfl
@[simp] theorem State.takeToken_pendAwait : s.takeToken.pendAwait = s.pendAwait := rfl
@[simp] theorem State.takeToken_pendOp : s.takeToken.pendOp = s.pendOp := rfl
@[simp] theorem State.takeToken_diag : s.takeToken.diag = s.diag := rfl
@[simp] theorem State.takeToken_txLog : s.takeToken.txLog = s.txLog := rfl
@[simp] theorem State.takeToken_atLog : s.takeToken.atLog = s.atLog := rfl
@[simp] theorem State.takeToken_cplLog : s.takeToken.cplLog = s.cplLog := rfl
@[simp] theorem State.takeToken_result : s.takeToken.result = s.result := rfl
@[simp] theorem State.takeToken_uartScript : s.takeToken.uartScript = s.uartScript := rfl
@[simp] theorem State.takeToken_uartDraws : s.takeToken.uartDraws = s.uartDraws := rfl
@[simp] theorem State.takeToken_port : s.takeToken.port = s.port := rfl

/-! ### State.postToken -/

@[simp] theorem State.postToken_cfg : s.postToken.cfg = s.cfg := rfl
@[simp] theorem State.postToken_mode : s.postToken.mode = s.mode := rfl
@[simp] theorem State.postToken_idleIrqEn : s.postToken.idleIrqEn = s.mode.armsIdleIrq := rfl
@[simp] theorem State.postToken_devPresent : s.postToken.devPresent = s.devPresent := rfl
@[simp] theorem State.postToken_lastPos : s.postToken.lastPos = s.lastPos := rfl
@[simp] theorem State.postToken_nqCount : s.postToken.nqCount = if s.nqCount < s.cfg.nqDepth then s.nqCount + 1 else s.nqCount :=
  rfl
@[simp] theorem State.postToken_dmaRemaining : s.postToken.dmaRemaining = s.dmaRemaining := rfl
@[simp] theorem State.postToken_dmaActive : s.postToken.dmaActive = s.dmaActive := rfl
@[simp] theorem State.postToken_irqHt : s.postToken.irqHt = s.irqHt := rfl
@[simp] theorem State.postToken_irqTc : s.postToken.irqTc = s.irqTc := rfl
@[simp] theorem State.postToken_irqIdle : s.postToken.irqIdle = s.irqIdle := rfl
@[simp] theorem State.postToken_rxbuf : s.postToken.rxbuf = s.rxbuf := rfl
@[simp] theorem State.postToken_rxfState : s.postToken.rxfState = s.rxfState := rfl
@[simp] theorem State.postToken_rxfLen : s.postToken.rxfLen = s.rxfLen := rfl
@[simp] theorem State.postToken_frame : s.postToken.frame = s.frame := rfl
@[simp] theorem State.postToken_rxfTrunc : s.postToken.rxfTrunc = s.rxfTrunc := rfl
@[simp] theorem State.postToken_txOpen : s.postToken.txOpen = s.txOpen := rfl
@[simp] theorem State.postToken_txPend : s.postToken.txPend = s.txPend := rfl
@[simp] theorem State.postToken_pendAwait : s.postToken.pendAwait = s.pendAwait := rfl
@[simp] theorem State.postToken_pendOp : s.postToken.pendOp = s.pendOp := rfl
@[simp] theorem State.postToken_diag : s.postToken.diag = s.diag := rfl
@[simp] theorem State.postToken_txLog : s.postToken.txLog = s.txLog := rfl
@[simp] theorem State.postToken_atLog : s.postToken.atLog = s.atLog := rfl
@[simp] theorem State.postToken_cplLog : s.postToken.cplLog = s.cplLog := rfl
@[simp] theorem State.postToken_result : s.postToken.result = s.result := rfl
@[simp] theorem State.postToken_uartScript : s.postToken.uartScript = s.uartScript := rfl
@[simp] theorem State.postToken_uartDraws : s.postToken.uartDraws = s.uartDraws := rfl
@[simp] theorem State.postToken_port : s.postToken.port = s.port := rfl

/-! ### State.closeFrame -/

@[simp] theorem State.closeFrame_cfg : s.closeFrame.cfg = s.cfg := rfl
@[simp] theorem State.closeFrame_mode : s.closeFrame.mode = s.mode := rfl
@[simp] theorem State.closeFrame_idleIrqEn : s.closeFrame.idleIrqEn = s.idleIrqEn := rfl
@[simp] theorem State.closeFrame_devPresent : s.closeFrame.devPresent = s.devPresent := rfl
@[simp] theorem State.closeFrame_lastPos : s.closeFrame.lastPos = s.lastPos := rfl
@[simp] theorem State.closeFrame_nqCount : s.closeFrame.nqCount = s.nqCount := rfl
@[simp] theorem State.closeFrame_dmaRemaining : s.closeFrame.dmaRemaining = s.dmaRemaining := rfl
@[simp] theorem State.closeFrame_dmaActive : s.closeFrame.dmaActive = s.dmaActive := rfl
@[simp] theorem State.closeFrame_irqHt : s.closeFrame.irqHt = s.irqHt := rfl
@[simp] theorem State.closeFrame_irqTc : s.closeFrame.irqTc = s.irqTc := rfl
@[simp] theorem State.closeFrame_irqIdle : s.closeFrame.irqIdle = s.irqIdle := rfl
@[simp] theorem State.closeFrame_rxbuf : s.closeFrame.rxbuf = s.rxbuf := rfl
@[simp] theorem State.closeFrame_rxfState : s.closeFrame.rxfState = s.rxfState := rfl
@[simp] theorem State.closeFrame_rxfLen : s.closeFrame.rxfLen = s.rxfLen := rfl
@[simp] theorem State.closeFrame_frame : s.closeFrame.frame = s.frame := rfl
@[simp] theorem State.closeFrame_rxfTrunc : s.closeFrame.rxfTrunc = s.rxfTrunc := rfl
@[simp] theorem State.closeFrame_txOpen : s.closeFrame.txOpen = false := rfl
@[simp] theorem State.closeFrame_txPend : s.closeFrame.txPend = [] := rfl
@[simp] theorem State.closeFrame_pendAwait : s.closeFrame.pendAwait = s.pendAwait := rfl
@[simp] theorem State.closeFrame_pendOp : s.closeFrame.pendOp = s.pendOp := rfl
@[simp] theorem State.closeFrame_diag : s.closeFrame.diag = s.diag := rfl
@[simp] theorem State.closeFrame_txLog : s.closeFrame.txLog = s.txLog := rfl
@[simp] theorem State.closeFrame_atLog : s.closeFrame.atLog = s.atLog := rfl
@[simp] theorem State.closeFrame_cplLog : s.closeFrame.cplLog = s.cplLog := rfl
@[simp] theorem State.closeFrame_result : s.closeFrame.result = s.result := rfl
@[simp] theorem State.closeFrame_uartScript : s.closeFrame.uartScript = s.uartScript := rfl
@[simp] theorem State.closeFrame_uartDraws : s.closeFrame.uartDraws = s.uartDraws := rfl
@[simp] theorem State.closeFrame_port : s.closeFrame.port = s.port := rfl

/-! ### State.dmaStart -/

@[simp] theorem State.dmaStart_cfg : s.dmaStart.cfg = s.cfg := rfl
@[simp] theorem State.dmaStart_mode : s.dmaStart.mode = s.mode := rfl
@[simp] theorem State.dmaStart_idleIrqEn : s.dmaStart.idleIrqEn = s.idleIrqEn := rfl
@[simp] theorem State.dmaStart_devPresent : s.dmaStart.devPresent = s.devPresent := rfl
@[simp] theorem State.dmaStart_lastPos : s.dmaStart.lastPos = s.lastPos := rfl
@[simp] theorem State.dmaStart_nqCount : s.dmaStart.nqCount = s.nqCount := rfl
@[simp] theorem State.dmaStart_dmaRemaining : s.dmaStart.dmaRemaining = s.cfg.rxCap := rfl
@[simp] theorem State.dmaStart_dmaActive : s.dmaStart.dmaActive = true := rfl
@[simp] theorem State.dmaStart_irqHt : s.dmaStart.irqHt = s.irqHt := rfl
@[simp] theorem State.dmaStart_irqTc : s.dmaStart.irqTc = s.irqTc := rfl
@[simp] theorem State.dmaStart_irqIdle : s.dmaStart.irqIdle = s.irqIdle := rfl
@[simp] theorem State.dmaStart_rxbuf : s.dmaStart.rxbuf = s.rxbuf := rfl
@[simp] theorem State.dmaStart_rxfState : s.dmaStart.rxfState = s.rxfState := rfl
@[simp] theorem State.dmaStart_rxfLen : s.dmaStart.rxfLen = s.rxfLen := rfl
@[simp] theorem State.dmaStart_frame : s.dmaStart.frame = s.frame := rfl
@[simp] theorem State.dmaStart_rxfTrunc : s.dmaStart.rxfTrunc = s.rxfTrunc := rfl
@[simp] theorem State.dmaStart_txOpen : s.dmaStart.txOpen = s.txOpen := rfl
@[simp] theorem State.dmaStart_txPend : s.dmaStart.txPend = s.txPend := rfl
@[simp] theorem State.dmaStart_pendAwait : s.dmaStart.pendAwait = s.pendAwait := rfl
@[simp] theorem State.dmaStart_pendOp : s.dmaStart.pendOp = s.pendOp := rfl
@[simp] theorem State.dmaStart_diag : s.dmaStart.diag = s.diag := rfl
@[simp] theorem State.dmaStart_txLog : s.dmaStart.txLog = s.txLog := rfl
@[simp] theorem State.dmaStart_atLog : s.dmaStart.atLog = s.atLog := rfl
@[simp] theorem State.dmaStart_cplLog : s.dmaStart.cplLog = s.cplLog := rfl
@[simp] theorem State.dmaStart_result : s.dmaStart.result = s.result := rfl
@[simp] theorem State.dmaStart_uartScript : s.dmaStart.uartScript = s.uartScript := rfl
@[simp] theorem State.dmaStart_uartDraws : s.dmaStart.uartDraws = s.uartDraws := rfl
@[simp] theorem State.dmaStart_port : s.dmaStart.port = s.port := rfl

/-! ### State.spendDraw -/

@[simp] theorem State.spendDraw_cfg : s.spendDraw.cfg = s.cfg := by
  unfold State.spendDraw; split <;> rfl
@[simp] theorem State.spendDraw_mode : s.spendDraw.mode = s.mode := by
  unfold State.spendDraw; split <;> rfl
@[simp] theorem State.spendDraw_idleIrqEn : s.spendDraw.idleIrqEn = s.idleIrqEn := by
  unfold State.spendDraw; split <;> rfl
@[simp] theorem State.spendDraw_devPresent : s.spendDraw.devPresent = s.devPresent := by
  unfold State.spendDraw; split <;> rfl
@[simp] theorem State.spendDraw_lastPos : s.spendDraw.lastPos = s.lastPos := by
  unfold State.spendDraw; split <;> rfl
@[simp] theorem State.spendDraw_nqCount : s.spendDraw.nqCount = s.nqCount := by
  unfold State.spendDraw; split <;> rfl
@[simp] theorem State.spendDraw_dmaRemaining : s.spendDraw.dmaRemaining = s.dmaRemaining := by
  unfold State.spendDraw; split <;> rfl
@[simp] theorem State.spendDraw_dmaActive : s.spendDraw.dmaActive = s.dmaActive := by
  unfold State.spendDraw; split <;> rfl
@[simp] theorem State.spendDraw_irqHt : s.spendDraw.irqHt = s.irqHt := by
  unfold State.spendDraw; split <;> rfl
@[simp] theorem State.spendDraw_irqTc : s.spendDraw.irqTc = s.irqTc := by
  unfold State.spendDraw; split <;> rfl
@[simp] theorem State.spendDraw_irqIdle : s.spendDraw.irqIdle = s.irqIdle := by
  unfold State.spendDraw; split <;> rfl
@[simp] theorem State.spendDraw_rxbuf : s.spendDraw.rxbuf = s.rxbuf := by
  unfold State.spendDraw; split <;> rfl
@[simp] theorem State.spendDraw_rxfState : s.spendDraw.rxfState = s.rxfState := by
  unfold State.spendDraw; split <;> rfl
@[simp] theorem State.spendDraw_rxfLen : s.spendDraw.rxfLen = s.rxfLen := by
  unfold State.spendDraw; split <;> rfl
@[simp] theorem State.spendDraw_frame : s.spendDraw.frame = s.frame := by
  unfold State.spendDraw; split <;> rfl
@[simp] theorem State.spendDraw_rxfTrunc : s.spendDraw.rxfTrunc = s.rxfTrunc := by
  unfold State.spendDraw; split <;> rfl
@[simp] theorem State.spendDraw_txOpen : s.spendDraw.txOpen = s.txOpen := by
  unfold State.spendDraw; split <;> rfl
@[simp] theorem State.spendDraw_txPend : s.spendDraw.txPend = s.txPend := by
  unfold State.spendDraw; split <;> rfl
@[simp] theorem State.spendDraw_pendAwait : s.spendDraw.pendAwait = s.pendAwait := by
  unfold State.spendDraw; split <;> rfl
@[simp] theorem State.spendDraw_pendOp : s.spendDraw.pendOp = s.pendOp := by
  unfold State.spendDraw; split <;> rfl
@[simp] theorem State.spendDraw_diag : s.spendDraw.diag = s.diag := by
  unfold State.spendDraw; split <;> rfl
@[simp] theorem State.spendDraw_txLog : s.spendDraw.txLog = s.txLog := by
  unfold State.spendDraw; split <;> rfl
@[simp] theorem State.spendDraw_atLog : s.spendDraw.atLog = s.atLog := by
  unfold State.spendDraw; split <;> rfl
@[simp] theorem State.spendDraw_cplLog : s.spendDraw.cplLog = s.cplLog := by
  unfold State.spendDraw; split <;> rfl
@[simp] theorem State.spendDraw_result : s.spendDraw.result = s.result := by
  unfold State.spendDraw; split <;> rfl
@[simp] theorem State.spendDraw_port : s.spendDraw.port = s.port := by
  unfold State.spendDraw; split <;> rfl

end Sys2Proof.Machine
end

