-- ==== Sys2Proof/Laws/Ops.lean ====
section
/-! SUPPORT. One lemma per shared operation of Machine/Ops.lean that says what it can do. -/

namespace Sys2Proof.Machine

variable (s : State)

/-- A pending request is failed, or there is none. -/
theorem State.failPending_cases (c : CompletionCode) :
    (s.pendAwait = true ∧ s.failPending c = s.resolve c s.pendOp 0x00#8 0#32) ∨
    (s.pendAwait = false ∧ s.failPending c = s) := by
  unfold State.failPending
  cases h : s.pendAwait <;> simp

/-- An empty write succeeds; any other is accepted whole or fails after a strict part. -/
theorem State.uartReport_cases (len : Nat) :
    (s.uartReport len = { ok := true, sent := len }) ∨
    (∃ k, k < len ∧ s.uartReport len = { ok := false, sent := k }) := by
  unfold State.uartReport
  by_cases h0 : len = 0
  · simp [h0]
  · have hm : ∀ k, k % len < len := fun k => Nat.mod_lt _ (by omega)
    rw [if_neg h0]
    split
    · simp
    · exact .inr ⟨_, hm _, rfl⟩
    · split
      · simp
      · exact .inr ⟨_, hm _, rfl⟩

/-- What a write does: nothing if it is empty, else the bytes sent reach TXLOG and the draw is
spent. -/
theorem State.uartWrite_eq (bs : List Byte) :
    s.uartWrite bs = if bs = [] then s else
      { s.spendDraw with
        txLog := s.txLog ++ (bs.take (s.uartReport bs.length).sent).map .item } := by
  unfold State.uartWrite
  cases bs with
  | nil => simp
  | cons b bs =>
    simp only [List.length_cons, Nat.succ_ne_zero, reduceIte, reduceCtorEq]
    unfold State.spendDraw State.emitTx
    dsimp only
    split <;> rfl

/-- A write that the UART accepts. -/
theorem State.sendWire_accepted {bs : List Byte} (h : s.accepts bs) :
    s.sendWire bs = s.sentOk bs := by
  rcases s.uartReport_cases bs.length with hr | ⟨k, -, hr⟩
  · unfold State.sendWire
    rw [State.uartWrite_eq, hr]
    cases bs with
    | nil => simp [State.sentOk, State.ret, WriteReport.code]
    | cons b bs => simp [State.sentOk, State.ret, WriteReport.code]
  · simp [State.accepts, hr] at h

/-- A write that the UART does not accept. -/
theorem State.sendWire_failed {bs : List Byte} (h : ¬ s.accepts bs) :
    ∃ k, k < bs.length ∧ s.sendWire bs = { s.spendDraw with
      txLog := s.txLog ++ (bs.take k).map .item, result := some ⟨.uartWriteFail, k⟩ } := by
  rcases s.uartReport_cases bs.length with hr | ⟨k, hk, hr⟩
  · simp [State.accepts, hr] at h
  · refine ⟨k, hk, ?_⟩
    have hb : bs ≠ [] := by rintro rfl; simp at hk
    unfold State.sendWire
    rw [State.uartWrite_eq, if_neg hb, hr]
    simp [State.ret, WriteReport.code]

/-- A write touches TXLOG, the UART draws and the result, and nothing else. -/
theorem State.sendWire_frame (bs : List Byte) :
    s.sendWire bs = { s with
      txLog := (s.sendWire bs).txLog, uartScript := (s.sendWire bs).uartScript,
      uartDraws := (s.sendWire bs).uartDraws, result := (s.sendWire bs).result } := by
  unfold State.sendWire
  rw [State.uartWrite_eq]
  unfold State.spendDraw State.ret
  split
  · rfl
  · split <;> rfl

/-- A write appends to TXLOG. -/
theorem State.sendWire_txLog (bs : List Byte) : s.txLog <+: (s.sendWire bs).txLog := by
  unfold State.sendWire
  rw [State.uartWrite_eq]
  split <;> simp

/-- Going on where LAST_POS is an index of RXBUF. -/
theorem State.withRing_cases (o : Host.Outcome State Fault Refusal) :
    (s.lastPos < s.cfg.rxCap ∧ s.withRing o = o) ∨
    (s.cfg.rxCap ≤ s.lastPos ∧ s.withRing o = .fault (.rxbufIndex s.lastPos)) := by
  unfold State.withRing
  split <;> simp <;> omega

/-- Going on where RXF_LEN is a length FRAME can have. -/
theorem State.withFrame_cases (o : Host.Outcome State Fault Refusal) :
    (s.rxfLen ≤ frameCap ∧ s.withFrame o = o) ∨
    (frameCap < s.rxfLen ∧ s.withFrame o = .fault (.frameIndex s.rxfLen)) := by
  unfold State.withFrame
  split <;> simp <;> omega

end Sys2Proof.Machine
end

