-- ==== Sys2Proof/Laws/Codec.lean ====
section
/-! SUPPORT. Byte order, the escape function, the checksum, and what building and parsing a packet
can do. -/

namespace Sys2Proof

@[simp] theorem le16_length (v : Word16) : (le16 v).length = 2 := rfl

@[simp] theorem le32_length (v : Word32) : (le32 v).length = 4 := rfl

@[simp] theorem payloadWord_length (o : WordOrder) (v : Word32) : (payloadWord o v).length = 4 := by
  cases o <;> rfl

theorem join16_le16 (v : Word16) : join16 (v.extractLsb' 0 8) (v.extractLsb' 8 8) = v := by
  apply BitVec.eq_of_getLsbD_eq
  intro i hi
  simp only [join16, BitVec.getLsbD_append, BitVec.getLsbD_extractLsb']
  by_cases h : i < 8
  · simp [h]
  · have e : 8 + (i - 8) = i := by omega
    have e' : i - 8 < 8 := by omega
    simp [h, e, e']

theorem join32_le32 (v : Word32) :
    join32 (v.extractLsb' 0 8) (v.extractLsb' 8 8) (v.extractLsb' 16 8) (v.extractLsb' 24 8) = v := by
  apply BitVec.eq_of_getLsbD_eq
  intro i hi
  simp only [join32, BitVec.getLsbD_append, BitVec.getLsbD_extractLsb']
  by_cases h : i < 8
  · simp [h]
  · by_cases h2 : i < 16
    · have e : 8 + (i - 8) = i := by omega
      have e' : i - 8 < 8 := by omega
      simp [h, e, e']
    · by_cases h3 : i < 24
      · have e0 : ¬ i - 8 < 8 := by omega
        have e : 16 + (i - 8 - 8) = i := by omega
        have e' : i - 8 - 8 < 8 := by omega
        simp [h, e, e', e0]
      · have e0 : ¬ i - 8 < 8 := by omega
        have e1 : ¬ i - 8 - 8 < 8 := by omega
        have e : 24 + (i - 8 - 8 - 8) = i := by omega
        have e' : i - 8 - 8 - 8 < 8 := by omega
        simp [h, e, e', e0, e1]

theorem le16_join16 (b0 b1 : Byte) : le16 (join16 b0 b1) = [b0, b1] := by
  have h0 : (join16 b0 b1).extractLsb' 0 8 = b0 := by
    apply BitVec.eq_of_getLsbD_eq
    intro i hi
    simp only [join16, BitVec.getLsbD_append, BitVec.getLsbD_extractLsb']
    simp [hi]
  have h1 : (join16 b0 b1).extractLsb' 8 8 = b1 := by
    apply BitVec.eq_of_getLsbD_eq
    intro i hi
    simp only [join16, BitVec.getLsbD_append, BitVec.getLsbD_extractLsb']
    simp [hi]
  rw [le16, h0, h1]

theorem le32_join32 (b0 b1 b2 b3 : Byte) : le32 (join32 b0 b1 b2 b3) = [b0, b1, b2, b3] := by
  have h0 : (join32 b0 b1 b2 b3).extractLsb' 0 8 = b0 := by
    apply BitVec.eq_of_getLsbD_eq
    intro i hi
    simp only [join32, BitVec.getLsbD_append, BitVec.getLsbD_extractLsb']
    simp [hi]
  have h1 : (join32 b0 b1 b2 b3).extractLsb' 8 8 = b1 := by
    apply BitVec.eq_of_getLsbD_eq
    intro i hi
    simp only [join32, BitVec.getLsbD_append, BitVec.getLsbD_extractLsb']
    simp [hi]
  have h2 : (join32 b0 b1 b2 b3).extractLsb' 16 8 = b2 := by
    apply BitVec.eq_of_getLsbD_eq
    intro i hi
    simp only [join32, BitVec.getLsbD_append, BitVec.getLsbD_extractLsb']
    have e0 : ¬ 16 + i < 8 := by omega
    have e1 : ¬ 16 + i - 8 < 8 := by omega
    have e : 16 + i - 8 - 8 = i := by omega
    simp [hi, e0, e1, e]
  have h3 : (join32 b0 b1 b2 b3).extractLsb' 24 8 = b3 := by
    apply BitVec.eq_of_getLsbD_eq
    intro i hi
    simp only [join32, BitVec.getLsbD_append, BitVec.getLsbD_extractLsb']
    have e0 : ¬ 24 + i < 8 := by omega
    have e1 : ¬ 24 + i - 8 < 8 := by omega
    have e2 : ¬ 24 + i - 8 - 8 < 8 := by omega
    have e : 24 + i - 8 - 8 - 8 = i := by omega
    simp [hi, e0, e1, e2, e]
  rw [le32, h0, h1, h2, h3]

/-- The word laid at the head of a payload reads back. -/
theorem payloadWordAt_head (o : WordOrder) (v : Word32) (rest : List Byte) :
    payloadWordAt o (payloadWord o v ++ rest) 0 = v := by
  cases o <;> simp [payloadWord, payloadWordAt, be32, le32, rdle32, join32_le32]

/-- A word laid further on reads back there. -/
theorem payloadWordAt_append (o : WordOrder) (front s : List Byte) :
    payloadWordAt o (front ++ s) front.length = payloadWordAt o s 0 := by
  have h : ∀ k, (front ++ s).getD (front.length + k) 0#8 = s.getD k 0#8 := by
    intro k
    simp [List.getD_eq_getElem?_getD, List.getElem?_append_right]
  have h0 := h 0
  simp only [Nat.add_zero] at h0
  cases o <;> simp only [payloadWordAt, rdle32, h, h0, Nat.zero_add]

namespace Machine

/-! ### SLIP -/

theorem escAll_append (p q : List Byte) : escAll (p ++ q) = escAll p ++ escAll q := by
  simp [escAll]

@[simp] theorem escAll_cons (b : Byte) (p : List Byte) : escAll (b :: p) = esc b ++ escAll p := by
  simp [escAll]

@[simp] theorem escAll_nil : escAll [] = [] := rfl

/-- The three forms of `esc` (R181). -/
theorem esc_cases (b : Byte) :
    (b = slipEnd ∧ esc b = [slipEsc, slipEscEnd]) ∨
    (b = slipEsc ∧ esc b = [slipEsc, slipEscEsc]) ∨
    (b ≠ slipEnd ∧ b ≠ slipEsc ∧ esc b = [b]) := by
  unfold esc
  by_cases h : b = slipEnd
  · simp [h]
  · by_cases h' : b = slipEsc
    · simp [h', slipEsc, slipEnd]
    · simp [h, h']

/-! ### Requests -/

variable (s : State)

/-- The five outcomes of the common build sequence (R221). -/
theorem State.romBuild_cases (opcode : Byte) (payload : List Byte) (chk : Word32) :
    (s.devPresent = false ∧ s.romBuild opcode payload chk = s.raise .noDevice) ∨
    (s.devPresent = true ∧ s.mode ≠ .flashing ∧
      s.romBuild opcode payload chk = s.raise .sequencing) ∨
    (s.devPresent = true ∧ s.mode = .flashing ∧ (s.pendAwait = true ∨ s.txOpen = true) ∧
      s.romBuild opcode payload chk = s.raise .busy) ∨
    (s.canBuild ∧ s.accepts (requestFrame opcode payload chk) ∧
      s.romBuild opcode payload chk =
        { (s.sentOk (requestFrame opcode payload chk)) with
          pendAwait := true, pendOp := opcode }) ∨
    (s.canBuild ∧ ¬ s.accepts (requestFrame opcode payload chk) ∧
      s.romBuild opcode payload chk = s.sendWire (requestFrame opcode payload chk)) := by
  unfold State.romBuild State.canBuild
  cases hd : s.devPresent with
  | false => simp
  | true =>
    by_cases hm : s.mode = .flashing
    · by_cases hb : s.pendAwait = true ∨ s.txOpen = true
      · right; right; left; simp [hm, hb]
      · have hb' := hb
        simp only [not_or, Bool.not_eq_true] at hb'
        by_cases ha : s.accepts (requestFrame opcode payload chk)
        · right; right; right; left
          refine ⟨⟨rfl, hm, hb'.1, hb'.2⟩, ha, ?_⟩
          have ha' : (s.uartReport (requestFrame opcode payload chk).length).ok = true := ha
          simp [hm, hb'.1, hb'.2, ha', State.sendWire_accepted s ha]
        · right; right; right; right
          refine ⟨⟨rfl, hm, hb'.1, hb'.2⟩, ha, ?_⟩
          have ha' : ¬ (s.uartReport (requestFrame opcode payload chk).length).ok = true := ha
          simp [hm, hb'.1, hb'.2, ha']
    · right; left; simp [hm]

/-! ### Responses -/

/-- Everything a parse can do (R241 to R243): it sets DIAG bits and resolves the pending request at
most once, under its own opcode. Which bits and which record depend on the parameters and on the
pending request alone. -/
theorem State.romParse_effect (p : List Byte) :
    ∃ (bits : BitVec 4) (r : Option Completion),
      (∀ c, r = some c → s.pendAwait = true ∧ c.op = s.pendOp) ∧
      ∀ t : State, t.cfg = s.cfg → t.pendAwait = s.pendAwait → t.pendOp = s.pendOp →
        t.romParse p = { t with
          diag := t.diag ||| bits, pendAwait := t.pendAwait && r.isNone,
          cplLog := t.cplLog ++ (r.map .item).toList } := by
  by_cases h1 : p.length < s.cfg.statusOffset + 1 ∨ p.getD 0 0x00#8 ≠ 0x01#8
  · cases h2 : s.pendAwait with
    | false =>
      refine ⟨diagProto, none, by simp, fun t hc ha ho => ?_⟩
      rw [State.romParse, hc, if_pos h1, State.malformed, State.failPending]
      simp [State.setDiag, ha, ← hc]
    | true =>
      refine ⟨diagProto, some ⟨.protocol, s.pendOp, 0x00#8, 0#32⟩, by simp, fun t hc ha ho => ?_⟩
      rw [State.romParse, hc, if_pos h1, State.malformed, State.failPending]
      simp [State.setDiag, State.resolve, State.complete, ha, ho, hc]
  · by_cases h2 : s.pendAwait = false ∨ p.getD 1 0x00#8 ≠ s.pendOp
    · refine ⟨diagLate, none, by simp, fun t hc ha ho => ?_⟩
      rw [State.romParse, hc, if_neg h1, ha, ho, if_pos h2]
      simp [State.setDiag, ha, ← hc, ← ho]
    · have hp : s.pendAwait = true ∧ p.getD 1 0x00#8 = s.pendOp := by
        simpa [not_or] using h2
      have key : ∀ t : State, t.cfg = s.cfg → t.pendAwait = s.pendAwait → t.pendOp = s.pendOp →
          t.romParse p = t.resolveResponse p := by
        intro t hc ha ho
        rw [State.romParse, hc, if_neg h1, ha, ho, if_neg h2]
      by_cases h3 : p.getD s.cfg.statusOffset 0x00#8 ≠ 0x00#8
      · refine ⟨0#4, some ⟨.statusFail, p.getD 1 0x00#8, p.getD s.cfg.statusOffset 0x00#8, 0#32⟩,
          by rintro c ⟨⟩; exact hp, fun t hc ha ho => ?_⟩
        rw [key t hc ha ho, State.resolveResponse]
        rw [hc, if_pos h3]
        simp [State.resolve, State.complete, ← hc]
      · by_cases h4 : p.getD 1 0x00#8 = 0x0A#8 ∧ p.length < s.cfg.valueOffset + 4
        · refine ⟨diagProto, some ⟨.protocol, p.getD 1 0x00#8, 0x00#8, 0#32⟩,
            by rintro c ⟨⟩; exact hp, fun t hc ha ho => ?_⟩
          rw [key t hc ha ho, State.resolveResponse]
          rw [hc, if_neg h3, if_pos h4]
          simp [State.setDiag, State.resolve, State.complete, ← hc]
        · by_cases h5 : p.getD 1 0x00#8 = 0x0A#8
          · refine ⟨0#4, some ⟨.ok, p.getD 1 0x00#8, 0x00#8, rdle32 p s.cfg.valueOffset⟩,
              by rintro c ⟨⟩; exact hp, fun t hc ha ho => ?_⟩
            rw [key t hc ha ho, State.resolveResponse]
            rw [hc, if_neg h3, if_neg h4, if_pos h5]
            simp [State.resolve, State.complete, ← hc]
          · refine ⟨0#4, some ⟨.ok, p.getD 1 0x00#8, 0x00#8, 0#32⟩,
              by rintro c ⟨⟩; exact hp, fun t hc ha ho => ?_⟩
            rw [key t hc ha ho, State.resolveResponse]
            rw [hc, if_neg h3, if_neg h4, if_neg h5]
            simp [State.resolve, State.complete, ← hc]

/-- A parse neither reads nor writes anything but DIAG, the pending request, CPLLOG and the
parameters: it commutes with a change of any other field. -/
theorem State.romParse_commutes (p : List Byte) (f : State → State)
    (hf : ∀ (t : State) (bits : BitVec 4) (a : Bool) (l : List (LogItem Completion)),
      f { t with diag := t.diag ||| bits, pendAwait := a, cplLog := t.cplLog ++ l } =
        { f t with
          diag := (f t).diag ||| bits, pendAwait := a, cplLog := (f t).cplLog ++ l })
    (h1 : (f s).cfg = s.cfg) (h2 : (f s).pendAwait = s.pendAwait)
    (h3 : (f s).pendOp = s.pendOp) : (f s).romParse p = f (s.romParse p) := by
  obtain ⟨bits, r, -, h⟩ := s.romParse_effect p
  rw [h s rfl rfl rfl, h (f s) h1 h2 h3, hf, h2]

/-- A parse neither reads nor writes the deframer. -/
theorem State.romParse_deframer (p : List Byte) (st : RxfState) (n : Nat) (m : Memory) (tr : Bool) :
    ({ s with rxfState := st, rxfLen := n, frame := m, rxfTrunc := tr } : State).romParse p =
      { s.romParse p with rxfState := st, rxfLen := n, frame := m, rxfTrunc := tr } :=
  s.romParse_commutes p
    (fun t => { t with rxfState := st, rxfLen := n, frame := m, rxfTrunc := tr })
    (fun _ _ _ _ => rfl) rfl rfl rfl

/-- A parse leaves the deframer's fields alone. -/
theorem State.romParse_own (p : List Byte) :
    (s.romParse p).rxfState = s.rxfState ∧ (s.romParse p).rxfLen = s.rxfLen ∧
      (s.romParse p).frame = s.frame ∧ (s.romParse p).rxfTrunc = s.rxfTrunc := by
  obtain ⟨bits, r, -, h⟩ := s.romParse_effect p
  rw [h s rfl rfl rfl]
  exact ⟨rfl, rfl, rfl, rfl⟩

/-! ### Checksum -/

theorem fold_append (seed : Word32) (a b : List Byte) :
    fold seed (a ++ b) = fold (fold seed a) b := by
  simp [fold]

/-- The seed stands apart from the block in the fold. -/
theorem fold_seed (seed : Word32) (d : List Byte) : fold seed d = seed ^^^ fold 0#32 d := by
  induction d generalizing seed with
  | nil => simp [fold]
  | cons b d ih =>
    have h : ∀ x, fold x (b :: d) = fold (x ^^^ b.setWidth 32) d := fun _ => rfl
    rw [h, h, ih, ih (0#32 ^^^ _)]
    simp [BitVec.xor_assoc]

end Machine
end Sys2Proof
end

