-- ==== Sys2Proof/Laws/Memory.lean ====
section
/-! SUPPORT. The laws of one-byte memory access: a read after a write, the canonical form, and equal
memories being equal data. -/

namespace Sys2Proof.Machine

theorem Memory.wf_tail {c : Host.Cell} {m : Memory} (h : Memory.wf (c :: m)) : m.wf :=
  ⟨h.1.tail, fun d hd => h.2 d (List.mem_cons_of_mem _ hd)⟩

/-- An index below every listed one is unlisted. -/
theorem Memory.read_unlisted {m : Memory} {i : Nat} (h : ∀ c ∈ m, i ≠ c.1) :
    m.read i = Memory.unlisted := by
  induction m with
  | nil => rfl
  | cons c m ih =>
    obtain ⟨k, b⟩ := c
    have hk : k ≠ i := fun e => h (k, b) (by simp) e.symm
    simp only [Memory.read, if_neg hk]
    exact ih fun d hd => h d (List.mem_cons_of_mem _ hd)

theorem Memory.read_below {m : Memory} {k i : Nat} {b : Byte} (h : Memory.wf ((k, b) :: m))
    (hi : i ≤ k) : m.read i = Memory.unlisted := by
  refine Memory.read_unlisted fun c hc => ?_
  have := (List.pairwise_cons.mp h.1).1 c hc
  simp only at this
  omega

/-- A read after a write to the same index gives the byte written. -/
theorem Memory.read_write_same {m : Memory} (h : m.wf) (i : Nat) (b : Byte) :
    (m.write i b).read i = b := by
  induction m with
  | nil =>
    unfold Memory.write
    split
    · next hb => simp [Memory.read, hb]
    · simp [Memory.read]
  | cons c m ih =>
    obtain ⟨k, d⟩ := c
    unfold Memory.write
    split
    · next hik =>
      split
      · next hb =>
        have hk : k ≠ i := by omega
        simp only [Memory.read, if_neg hk]
        rw [Memory.read_below h (by omega), hb]
      · simp [Memory.read]
    · split
      · next hik =>
        subst hik
        split
        · next hb => rw [Memory.read_below h (Nat.le_refl _), hb]
        · simp [Memory.read]
      · next h1 h2 =>
        have hk : k ≠ i := fun e => h2 e.symm
        simp only [Memory.read, if_neg hk]
        exact ih (Memory.wf_tail h)

/-- A write leaves every other index alone. -/
theorem Memory.read_write_other (m : Memory) {i j : Nat} (b : Byte) (hij : j ≠ i) :
    (m.write i b).read j = m.read j := by
  induction m with
  | nil =>
    unfold Memory.write
    split
    · rfl
    · simp [Memory.read, Ne.symm hij]
  | cons c m ih =>
    obtain ⟨k, d⟩ := c
    unfold Memory.write
    split
    · split
      · rfl
      · simp [Memory.read, Ne.symm hij]
    · split
      · next hik =>
        subst hik
        split <;> simp [Memory.read, Ne.symm hij]
      · simp only [Memory.read, ih]

theorem Memory.mem_write {m : Memory} {i : Nat} {b : Byte} {c : Host.Cell}
    (h : c ∈ m.write i b) : c ∈ m ∨ (c = (i, b) ∧ b ≠ Memory.unlisted) := by
  induction m with
  | nil =>
    unfold Memory.write at h
    split at h
    · simp at h
    · next hb => exact Or.inr ⟨by simpa using h, hb⟩
  | cons d m ih =>
    obtain ⟨k, e⟩ := d
    unfold Memory.write at h
    split at h
    · split at h
      · exact Or.inl h
      · next hb =>
        rcases List.mem_cons.mp h with h | h
        · exact Or.inr ⟨h, hb⟩
        · exact Or.inl h
    · split at h
      · split at h
        · exact Or.inl (List.mem_cons_of_mem _ h)
        · next hb =>
          rcases List.mem_cons.mp h with h | h
          · exact Or.inr ⟨h, hb⟩
          · exact Or.inl (List.mem_cons_of_mem _ h)
      · rcases List.mem_cons.mp h with h | h
        · exact Or.inl (by simp [h])
        · rcases ih h with h | h
          · exact Or.inl (List.mem_cons_of_mem _ h)
          · exact Or.inr h

/-- A write keeps the canonical form. -/
theorem Memory.write_wf {m : Memory} (h : m.wf) (i : Nat) (b : Byte) : (m.write i b).wf := by
  induction m with
  | nil =>
    unfold Memory.write
    split
    · simp [Memory.wf]
    · next hb => simp [Memory.wf, hb]
  | cons c m ih =>
    obtain ⟨k, d⟩ := c
    have hp := List.pairwise_cons.mp h.1
    refine ⟨?_, fun e he => ?_⟩
    · unfold Memory.write
      split
      · next hik =>
        split
        · exact h.1
        · refine List.pairwise_cons.mpr ⟨fun e he => ?_, h.1⟩
          rcases List.mem_cons.mp he with he | he
          · simp [he, hik]
          · have := hp.1 e he; simp only at this ⊢; omega
      · split
        · next hik =>
          subst hik
          split
          · exact hp.2
          · exact List.pairwise_cons.mpr ⟨hp.1, hp.2⟩
        · next h1 h2 =>
          refine List.pairwise_cons.mpr ⟨fun e he => ?_, (ih (Memory.wf_tail h)).1⟩
          rcases Memory.mem_write he with he | ⟨he, -⟩
          · exact hp.1 e he
          · simp only [he]; omega
    · rcases Memory.mem_write he with he | ⟨he, hb⟩
      · exact h.2 e he
      · simpa [he] using hb

/-- A write to an index that exists lists no index that does not. -/
theorem Memory.write_within {m : Memory} {n i : Nat} (h : m.within n) (hi : i < n) (b : Byte) :
    (m.write i b).within n := by
  intro c hc
  rcases Memory.mem_write hc with hc | ⟨hc, -⟩
  · exact h c hc
  · simpa [hc] using hi

/-- Overlaying cells keeps the canonical form and the space. -/
theorem Memory.overlay_wf (n : Nat) (cells : List Host.Cell) {m : Memory} (h : m.wf)
    (hn : m.within n) : (m.overlay n cells).wf ∧ (m.overlay n cells).within n := by
  unfold Memory.overlay
  induction cells generalizing m with
  | nil => exact ⟨h, hn⟩
  | cons c cs ih =>
    rw [List.foldl_cons]
    split
    · next hc => exact ih (Memory.write_wf h _ _) (Memory.write_within hn hc _)
    · exact ih h hn

/-- Equal memories are equal data: two canonical memories that read alike are the same list. -/
theorem Memory.ext_read {m m' : Memory} (h : m.wf) (h' : m'.wf)
    (hr : ∀ i, m.read i = m'.read i) : m = m' := by
  induction m generalizing m' with
  | nil =>
    cases m' with
    | nil => rfl
    | cons c t =>
      obtain ⟨k, b⟩ := c
      have := hr k
      simp only [Memory.read, if_pos] at this
      exact absurd this.symm (h'.2 (k, b) (by simp))
  | cons c m ih =>
    obtain ⟨k, b⟩ := c
    cases m' with
    | nil =>
      have := hr k
      simp only [Memory.read, if_pos] at this
      exact absurd this (h.2 (k, b) (by simp))
    | cons c' t =>
      obtain ⟨k', b'⟩ := c'
      have hb : b ≠ Memory.unlisted := h.2 (k, b) (by simp)
      have hb' : b' ≠ Memory.unlisted := h'.2 (k', b') (by simp)
      have hk : k = k' := by
        rcases Nat.lt_trichotomy k k' with hlt | heq | hgt
        · have := hr k
          simp only [Memory.read, if_pos] at this
          rw [if_neg (by omega), Memory.read_below h' (by omega)] at this
          exact absurd this hb
        · exact heq
        · have := hr k'
          simp only [Memory.read, if_pos] at this
          rw [if_neg (by omega), Memory.read_below h (by omega)] at this
          exact absurd this.symm hb'
      subst hk
      have hbb : b = b' := by simpa [Memory.read] using hr k
      subst hbb
      congr 1
      refine ih (Memory.wf_tail h) (Memory.wf_tail h') fun i => ?_
      by_cases hi : k = i
      · subst hi
        rw [Memory.read_below h (Nat.le_refl _), Memory.read_below h' (Nat.le_refl _)]
      · simpa [Memory.read, hi] using hr i

@[simp] theorem Memory.slice_length (m : Memory) (i j : Nat) : (m.slice i j).length = j - i := by
  simp [Memory.slice]

/-- A slice depends on the bytes of its range alone. -/
theorem Memory.slice_congr {m m' : Memory} {i j : Nat}
    (h : ∀ k, i ≤ k → k < j → m.read k = m'.read k) : m.slice i j = m'.slice i j := by
  unfold Memory.slice
  refine List.map_congr_left fun k hk => ?_
  simp only [List.mem_range'_1] at hk
  exact h k hk.1 (by omega)

/-- A slice extended by one byte. -/
theorem Memory.slice_succ (m : Memory) {i j : Nat} (h : i ≤ j) :
    m.slice i (j + 1) = m.slice i j ++ [m.read j] := by
  have e : j + 1 - i = (j - i) + 1 := by omega
  have e' : i + (j - i) = j := by omega
  simp [Memory.slice, e, List.range'_concat, e']

/-- A slice without its first byte. -/
theorem Memory.slice_cons (m : Memory) {i j : Nat} (h : i < j) :
    m.slice i j = m.read i :: m.slice (i + 1) j := by
  obtain ⟨n, hn⟩ : ∃ n, j - i = n + 1 := ⟨j - i - 1, by omega⟩
  have e : j - (i + 1) = n := by omega
  simp [Memory.slice, hn, e, List.range'_succ]

end Sys2Proof.Machine
end

