-- ==== Sys2Proof/Laws/Deframer.lean ====
section
/-! SUPPORT. What the deframer can do: one lemma per shared operation of Machine/Deframer.lean. -/

namespace Sys2Proof.Machine

/-- `t` is `s` after the deframer ran: its own fields anything, DIAG bits set, and the pending request
kept, or resolved once under its own opcode. -/
def deframed (s t : State) : Prop :=
  ∃ st n m tr bits,
    t = { s with rxfState := st, rxfLen := n, frame := m, rxfTrunc := tr, diag := s.diag ||| bits } ∨
    (s.pendAwait = true ∧ ∃ c sb v,
      t = ({ s with rxfState := st, rxfLen := n, frame := m, rxfTrunc := tr,
                    diag := s.diag ||| bits } : State).resolve c s.pendOp sb v)

theorem deframed_refl (s : State) : deframed s s :=
  ⟨s.rxfState, s.rxfLen, s.frame, s.rxfTrunc, 0#4, .inl (by simp)⟩

/-- The deframer's own fields change, and nothing else. -/
theorem deframed_own (s : State) (st : RxfState) (n : Nat) (m : Memory) (tr : Bool) :
    deframed s { s with rxfState := st, rxfLen := n, frame := m, rxfTrunc := tr } :=
  ⟨st, n, m, tr, 0#4, .inl (by simp)⟩

theorem deframed_trans {s t u : State} (h : deframed s t) (h' : deframed t u) : deframed s u := by
  obtain ⟨st, n, m, tr, bits, rfl | ⟨hp, c, sb, v, rfl⟩⟩ := h
  · obtain ⟨st', n', m', tr', bits', rfl | ⟨hp', c', sb', v', rfl⟩⟩ := h'
    · exact ⟨st', n', m', tr', bits ||| bits', .inl (by simp [BitVec.or_assoc])⟩
    · exact ⟨st', n', m', tr', bits ||| bits', .inr ⟨hp', c', sb', v', by simp [BitVec.or_assoc]⟩⟩
  · obtain ⟨st', n', m', tr', bits', rfl | ⟨hp', -⟩⟩ := h'
    · exact ⟨st', n', m', tr', bits ||| bits',
        .inr ⟨hp, c, sb, v, by simp [State.resolve, State.complete, BitVec.or_assoc]⟩⟩
    · simp at hp'

variable (s : State)

/-- The two cases of `append` (R193). -/
theorem State.append_cases (v : Byte) :
    (s.rxfLen < frameCap ∧
      s.append v = { s with frame := s.frame.write s.rxfLen v, rxfLen := s.rxfLen + 1 }) ∨
    (frameCap ≤ s.rxfLen ∧
      s.append v = { s with rxfTrunc := true, diag := s.diag ||| diagOvf }) := by
  unfold State.append
  by_cases h : s.rxfLen < frameCap
  · exact .inl ⟨h, by rw [if_pos h]⟩
  · exact .inr ⟨by omega, by rw [if_neg h]; rfl⟩

theorem State.append_deframed (v : Byte) : deframed s (s.append v) := by
  rcases s.append_cases v with ⟨-, e⟩ | ⟨-, e⟩ <;> rw [e]
  · exact deframed_own s _ _ _ _
  · exact ⟨_, _, _, _, _, .inl rfl⟩

theorem State.romParse_deframed (p : List Byte) : deframed s (s.romParse p) := by
  obtain ⟨bits, r, hr, h⟩ := s.romParse_effect p
  rw [h s rfl rfl rfl]
  cases r with
  | none => exact ⟨s.rxfState, s.rxfLen, s.frame, s.rxfTrunc, bits, .inl (by simp)⟩
  | some c =>
    obtain ⟨hp, ho⟩ := hr c rfl
    refine ⟨s.rxfState, s.rxfLen, s.frame, s.rxfTrunc, bits,
      .inr ⟨hp, c.code, c.status, c.value, ?_⟩⟩
    simp [State.resolve, State.complete, ← ho]

theorem State.deframerReset_deframed : deframed s s.deframerReset :=
  deframed_own s _ _ _ _

theorem State.setState_deframed (st : RxfState) : deframed s { s with rxfState := st } :=
  deframed_own s _ _ _ _

theorem State.badEscape_deframed : deframed s s.badEscape := by
  refine deframed_trans (t := (s.setDiag diagBadesc).failPending .framing) ?_
    (State.deframerReset_deframed _)
  rcases (s.setDiag diagBadesc).failPending_cases .framing with ⟨h, e⟩ | ⟨-, e⟩ <;> rw [e]
  · exact ⟨_, _, _, _, _, .inr ⟨h, _, _, _, rfl⟩⟩
  · exact ⟨_, _, _, _, _, .inl rfl⟩

/-- Everything a received byte can do (R185). -/
theorem State.rxByte_deframed (b : Byte) : deframed s (s.rxByte b) := by
  unfold State.rxByte
  split
  · split
    · exact deframed_trans (s.setState_deframed _) (State.append_deframed _ _)
    · exact deframed_refl s
  · split
    · exact s.setState_deframed _
    · split
      · exact deframed_refl s
      · split
        · exact deframed_trans (deframed_trans (s.append_deframed _) (State.romParse_deframed _ _))
            (State.deframerReset_deframed _)
        · exact s.append_deframed _
  · split
    · exact deframed_trans (s.append_deframed _) (State.setState_deframed _ _)
    · split
      · exact deframed_trans (s.append_deframed _) (State.setState_deframed _ _)
      · exact s.badEscape_deframed

/-- Everything a sequence of received bytes can do. -/
theorem State.rxBytes_deframed (bs : List Byte) : deframed s (s.rxBytes bs) := by
  unfold State.rxBytes
  induction bs generalizing s with
  | nil => exact deframed_refl s
  | cons b bs ih => exact deframed_trans (s.rxByte_deframed b) (ih _)

@[simp] theorem State.rxBytes_nil : s.rxBytes [] = s := rfl

@[simp] theorem State.rxBytes_cons (b : Byte) (bs : List Byte) :
    s.rxBytes (b :: bs) = (s.rxByte b).rxBytes bs := rfl

/-- Chunks of received bytes compose (R195). -/
theorem State.rxBytes_append (a b : List Byte) :
    s.rxBytes (a ++ b) = (s.rxBytes a).rxBytes b := by
  simp [State.rxBytes]

/-- The deframer leaves the fields of the other units alone. -/
theorem deframed_frame {s t : State} (h : deframed s t) :
    t = { s with
      rxfState := t.rxfState, rxfLen := t.rxfLen, frame := t.frame, rxfTrunc := t.rxfTrunc,
      diag := t.diag, pendAwait := t.pendAwait, cplLog := t.cplLog } := by
  obtain ⟨st, n, m, tr, bits, rfl | ⟨-, c, sb, v, rfl⟩⟩ := h <;> rfl

/-- The pending request and CPLLOG, across the deframer: kept, or resolved by one record under the
request's opcode (R244). -/
theorem deframed_completion {s t : State} (h : deframed s t) :
    (t.cplLog = s.cplLog ∧ t.pendAwait = s.pendAwait) ∨
    (∃ c : Completion, t.cplLog = s.cplLog ++ [.item c] ∧ c.op = s.pendOp ∧
      s.pendAwait = true ∧ t.pendAwait = false) := by
  obtain ⟨st, n, m, tr, bits, rfl | ⟨hp, c, sb, v, rfl⟩⟩ := h
  · exact .inl ⟨rfl, rfl⟩
  · exact .inr ⟨_, rfl, rfl, hp, rfl⟩

/-- What the deframer neither reads nor writes: NQ_COUNT, LAST_POS, the result. -/
theorem State.rxByte_others (b : Byte) (n l : Nat) (r : Option OpResult) :
    ({ s with nqCount := n, lastPos := l, result := r } : State).rxByte b =
      { s.rxByte b with nqCount := n, lastPos := l, result := r } := by
  have hp : ∀ (u : State) (p : List Byte),
      ({ u with nqCount := n, lastPos := l, result := r } : State).romParse p =
        { u.romParse p with nqCount := n, lastPos := l, result := r } := by
    intro u p
    exact u.romParse_commutes p (fun t => { t with nqCount := n, lastPos := l, result := r })
      (fun _ _ _ _ => rfl) rfl rfl rfl
  have ha : ∀ (u : State) (v : Byte),
      ({ u with nqCount := n, lastPos := l, result := r } : State).append v =
        { u.append v with nqCount := n, lastPos := l, result := r } := by
    intro u v
    unfold State.append
    dsimp only
    split <;> rfl
  unfold State.rxByte
  dsimp only
  split
  · split
    · unfold State.startFrame
      exact ha { s with rxfState := .inFrame } slipEnd
    · rfl
  · split
    · rfl
    · split
      · rfl
      · split
        · unfold State.endFrame State.handOff State.romReceive State.frameBytes
          rw [ha, hp]
          rfl
        · exact ha s b
  · split
    · unfold State.appendEscaped
      rw [ha]
    · split
      · unfold State.appendEscaped
        rw [ha]
      · unfold State.badEscape State.failPending State.setDiag
        cases s.pendAwait <;> simp only [Bool.false_eq_true, reduceIte] <;> rfl

theorem State.rxBytes_others (bs : List Byte) (n l : Nat) (r : Option OpResult) :
    ({ s with nqCount := n, lastPos := l, result := r } : State).rxBytes bs =
      { s.rxBytes bs with nqCount := n, lastPos := l, result := r } := by
  induction bs generalizing s with
  | nil => rfl
  | cons b bs ih =>
    rw [State.rxBytes_cons, State.rxBytes_cons, State.rxByte_others, ih]

end Sys2Proof.Machine
end

