-- ==== Sys2Proof/Laws/ByteSource.lean ====
section
/-! SUPPORT. What a successful drain does, and the newly arrived range. -/

namespace Sys2Proof.Machine

variable (s : State)

/-- A drain in Running appends the newly arrived bytes to ATLOG (R132, R133). -/
theorem State.drainNew_running (h : s.mode = .running) :
    s.takeToken.drainNew = { s with
      nqCount := s.nqCount - 1, lastPos := s.drainPos,
      atLog := s.atLog ++ s.newBytes.map .item, result := some ⟨.ok, s.newBytes.length⟩ } := by
  have hr : ∀ u : State, u.mode = .running → ∀ seg, u.route seg = u.feedAt seg :=
    fun u hu seg => by simp [State.route, hu]
  exact congrArg (State.ret .ok s.newBytes.length)
    (hr { s with nqCount := s.nqCount - 1, lastPos := s.drainPos } h s.newBytes)

/-- A drain in Flashing feeds the newly arrived bytes to the deframer (R132, R133). -/
theorem State.drainNew_flashing (h : s.mode = .flashing) :
    s.takeToken.drainNew = { s.rxBytes s.newBytes with
      nqCount := s.nqCount - 1, lastPos := s.drainPos,
      result := some ⟨.ok, s.newBytes.length⟩ } := by
  have hr : ∀ u : State, u.mode = .flashing → ∀ seg, u.route seg = u.rxBytes seg :=
    fun u hu seg => by simp [State.route, hu]
  have ho := s.rxBytes_others s.newBytes (s.nqCount - 1) s.drainPos s.result
  exact congrArg (State.ret .ok s.newBytes.length)
    ((hr { s with nqCount := s.nqCount - 1, lastPos := s.drainPos } h s.newBytes).trans ho)

/-- The write position is an index of RXBUF (R135). -/
theorem State.drainPos_lt (h : 0 < s.cfg.rxCap) : s.drainPos < s.cfg.rxCap := Nat.mod_lt _ h

/-- DRAIN's outcomes (R132, R134; log 20). -/
theorem execDrain_cases :
    (s.devPresent = false ∧ execDrain s = .next (s.takeToken.raise .noDevice)) ∨
    (s.devPresent = true ∧ s.mode = .uninitialized ∧
      execDrain s = .next (s.takeToken.raise .notConfigured)) ∨
    (s.devPresent = true ∧ s.mode = .running ∧
      execDrain s = s.withRing (.next s.takeToken.drainNew)) ∨
    (s.devPresent = true ∧ s.mode = .flashing ∧
      execDrain s = s.withRing (s.withFrame (.next s.takeToken.drainNew))) := by
  unfold execDrain
  cases hd : s.devPresent <;> cases hm : s.mode <;> simp

end Sys2Proof.Machine
end

