-- ==== Sys2Proof/Laws/Decode.lean ====
section
/-! SUPPORT. The decoder's operand readers, on encoded operands and the other way round. -/

namespace Sys2Proof

@[simp] theorem withByte_cons (b : Byte) (rest : List Byte) (k : Byte → List Byte → Decoded) :
    withByte (b :: rest) k = k b rest := rfl

@[simp] theorem withWord16_le16 (v : Word16) (rest : List Byte)
    (k : Word16 → List Byte → Decoded) : withWord16 (le16 v ++ rest) k = k v rest := by
  simp [withWord16, le16, join16_le16]

@[simp] theorem withWord32_le32 (v : Word32) (rest : List Byte)
    (k : Word32 → List Byte → Decoded) : withWord32 (le32 v ++ rest) k = k v rest := by
  simp [withWord32, le32, join32_le32]

/-- A data field whose length is given reads back. -/
theorem withData_append (data rest : List Byte) (k : List Byte → List Byte → Decoded) :
    withData data.length (data ++ rest) k = k data rest := by
  simp [withData]

/-- A 16-bit length field holds the length it was written from. -/
theorem toNat_length16 {data : List Byte} (h : fits16 data = true) :
    (BitVec.ofNat 16 data.length).toNat = data.length := by
  have h' : data.length < 65536 := by simpa [fits16] using h
  simp only [BitVec.toNat_ofNat]
  exact Nat.mod_eq_of_lt h'

/-- An 8-bit length field holds the length it was written from. -/
theorem toNat_length8 {data : List Byte} (h : fits8 data = true) :
    (BitVec.ofNat 8 data.length).toNat = data.length := by
  have h' : data.length < 256 := by simpa [fits8] using h
  simp only [BitVec.toNat_ofNat]
  exact Nat.mod_eq_of_lt h'

/-- What an 8-bit operand that was read came from. -/
theorem withByte_ok {bs : List Byte} {k : Byte → List Byte → Decoded} {r : Instr × List Byte}
    (h : withByte bs k = .ok r) : ∃ b rest, bs = b :: rest ∧ k b rest = .ok r := by
  match bs, h with
  | b :: rest, h => exact ⟨b, rest, rfl, h⟩

/-- What a 16-bit operand that was read came from. -/
theorem withWord16_ok {bs : List Byte} {k : Word16 → List Byte → Decoded} {r : Instr × List Byte}
    (h : withWord16 bs k = .ok r) : ∃ v rest, bs = le16 v ++ rest ∧ k v rest = .ok r := by
  match bs, h with
  | b0 :: b1 :: rest, h => exact ⟨join16 b0 b1, rest, by simp [le16_join16], h⟩

/-- What a 32-bit operand that was read came from. -/
theorem withWord32_ok {bs : List Byte} {k : Word32 → List Byte → Decoded} {r : Instr × List Byte}
    (h : withWord32 bs k = .ok r) : ∃ v rest, bs = le32 v ++ rest ∧ k v rest = .ok r := by
  match bs, h with
  | b0 :: b1 :: b2 :: b3 :: rest, h =>
    exact ⟨join32 b0 b1 b2 b3, rest, by simp [le32_join32], h⟩

/-- What a data field that was read came from. -/
theorem withData_ok {n : Nat} {bs : List Byte} {k : List Byte → List Byte → Decoded}
    {r : Instr × List Byte} (h : withData n bs k = .ok r) :
    ∃ data rest, bs = data ++ rest ∧ data.length = n ∧ k data rest = .ok r := by
  unfold withData at h
  split at h
  · cases h
  · exact ⟨bs.take n, bs.drop n, (List.take_append_drop n bs).symm, by simp; omega, h⟩

end Sys2Proof
end

