-- ==== Sys2Proof/Laws/Environment.lean ====
section
/-! SUPPORT. What the agents around the consumer can do: one lemma per operation of
Machine/Environment.lean. -/

namespace Sys2Proof.Machine

variable (s : State)

/-- The DMA agent's step (R64), with no reload pending. -/
theorem State.dmaReceive_active (b : Byte) (ha : s.dmaActive = true) (h1 : 1 ≤ s.dmaRemaining) :
    s.dmaReceive b = { s with
      rxbuf := s.rxbuf.write s.dmaPos b,
      dmaRemaining := if s.dmaRemaining = 1 then s.cfg.rxCap else s.dmaRemaining - 1,
      irqHt := s.irqHt || decide (s.dmaPos + 1 = s.cfg.rxCap / 2),
      irqTc := s.irqTc || decide (s.dmaRemaining = 1) } := by
  have h0 : s.dmaRemaining ≠ 0 := by omega
  have hn : s.dmaNextCount = s.dmaRemaining - 1 := by rw [State.dmaNextCount, if_neg h0]
  have e : (s.dmaRemaining - 1 = 0) = (s.dmaRemaining = 1) := by apply propext; omega
  unfold State.dmaReceive
  rw [if_neg (by rw [ha]; decide), hn]
  simp only [e]

/-- The DMA agent's step moves the write position by one, modulo RX_CAP, and keeps the count in its
range (R27, R64). -/
theorem State.dmaReceive_pos (b : Byte) (ha : s.dmaActive = true)
    (hr : s.dmaRemaining ≤ s.cfg.rxCap) (hc : 0 < s.cfg.rxCap) :
    (s.dmaReceive b).dmaPos = (s.dmaPos + 1) % s.cfg.rxCap ∧
      (s.dmaReceive b).dmaRemaining ≤ s.cfg.rxCap := by
  have e : s.dmaReceive b = { s with
      rxbuf := s.rxbuf.write s.dmaPos b,
      dmaRemaining := if s.dmaNextCount = 0 then s.cfg.rxCap else s.dmaNextCount,
      irqHt := s.irqHt || decide (s.dmaPos + 1 = s.cfg.rxCap / 2),
      irqTc := s.irqTc || decide (s.dmaNextCount = 0) } := by
    rw [State.dmaReceive, if_neg (by rw [ha]; decide)]
  rw [e]
  refine ⟨?_, ?_⟩
  · show (s.cfg.rxCap - (if s.dmaNextCount = 0 then s.cfg.rxCap else s.dmaNextCount)) %
      s.cfg.rxCap = ((s.cfg.rxCap - s.dmaRemaining) % s.cfg.rxCap + 1) % s.cfg.rxCap
    rw [Nat.mod_add_mod]
    unfold State.dmaNextCount
    by_cases h0 : s.dmaRemaining = 0
    · simp only [h0, reduceIte, Nat.sub_zero]
      split
      · rw [Nat.add_mod_left, show s.cfg.rxCap = 1 by omega]
      · rw [Nat.add_mod_left]; congr 1; omega
    · simp only [h0, reduceIte]
      split
      · rw [show s.cfg.rxCap - s.dmaRemaining + 1 = s.cfg.rxCap by omega]; simp
      · congr 1; omega
  · show (if s.dmaNextCount = 0 then s.cfg.rxCap else s.dmaNextCount) ≤ s.cfg.rxCap
    unfold State.dmaNextCount
    split <;> (try split) <;> omega

/-- A step of the DMA agent changes RXBUF, the count and two pending bits, and nothing else. -/
theorem State.dmaReceive_frame (b : Byte) :
    s.dmaReceive b = { s with
      rxbuf := (s.dmaReceive b).rxbuf, dmaRemaining := (s.dmaReceive b).dmaRemaining,
      irqHt := (s.dmaReceive b).irqHt, irqTc := (s.dmaReceive b).irqTc } := by
  by_cases h : s.dmaActive = false
  · rw [State.dmaReceive, if_pos h]
  · rw [State.dmaReceive, if_neg h]

/-- What delivering an interrupt can do (R311): nothing, or RXSIG with the source's bit cleared. -/
theorem State.deliver_cases (src : IrqSource) :
    (s.deliverable src = false ∧ s.deliver src = s) ∨
    (s.deliverable src = true ∧ s.deliver src = (s.clearIrq src).postToken.ret .ok 0) := by
  unfold State.deliver
  cases s.deliverable src <;> simp

/-- Clearing a pending bit changes pending bits alone. -/
theorem State.clearIrq_frame (src : IrqSource) :
    s.clearIrq src = { s with
      irqHt := (s.clearIrq src).irqHt, irqTc := (s.clearIrq src).irqTc,
      irqIdle := (s.clearIrq src).irqIdle } := by
  cases src <;> rfl

/-- Delivering an interrupt changes the token count, IDLE_IRQ_EN, pending bits and the result, and
nothing else. -/
theorem State.deliver_frame (src : IrqSource) :
    s.deliver src = { s with
      nqCount := (s.deliver src).nqCount, idleIrqEn := (s.deliver src).idleIrqEn,
      irqHt := (s.deliver src).irqHt, irqTc := (s.deliver src).irqTc,
      irqIdle := (s.deliver src).irqIdle, result := (s.deliver src).result } := by
  rcases s.deliver_cases src with ⟨-, e⟩ | ⟨-, e⟩ <;> rw [e]
  cases src <;> rfl

end Sys2Proof.Machine
end

