-- ==== Sys2Proof/Laws/Exec.lean ====
section
/-! SUPPORT. One equation per instruction: what `exec` runs. -/

namespace Sys2Proof.Machine

variable (s : State)

@[simp] theorem exec_setmode_eq (m : Byte) :
    exec (.setmode m) s = execSetmode m s := rfl

@[simp] theorem exec_getmode_eq :
    exec .getmode s = execGetmode s := rfl

@[simp] theorem exec_setdev_eq (p : Byte) :
    exec (.setdev p) s = execSetdev p s := rfl

@[simp] theorem exec_cancel_eq :
    exec .cancel s = execCancel s := rfl

@[simp] theorem exec_rddiag_eq :
    exec .rddiag s = execRddiag s := rfl

@[simp] theorem exec_rxsig_eq (src : Byte) :
    exec (.rxsig src) s = execRxsig src s := rfl

@[simp] theorem exec_drain_eq :
    exec .drain s = execDrain s := rfl

@[simp] theorem exec_send_eq (data : List Byte) :
    exec (.send data) s = execSend data s := rfl

@[simp] theorem exec_slipBegin_eq :
    exec .slipBegin s = execSlipBegin s := rfl

@[simp] theorem exec_slipByte_eq (b : Byte) :
    exec (.slipByte b) s = execSlipByte b s := rfl

@[simp] theorem exec_slipEnd_eq :
    exec .slipEnd s = execSlipEnd s := rfl

@[simp] theorem exec_slipRxbyte_eq (b : Byte) :
    exec (.slipRxbyte b) s = execSlipRxbyte b s := rfl

@[simp] theorem exec_romSync_eq :
    exec .romSync s = execRomSync s := rfl

@[simp] theorem exec_romReadreg_eq (addr : Word32) :
    exec (.romReadreg addr) s = execRomReadreg addr s := rfl

@[simp] theorem exec_romFbegin_eq (size : Word32) (off : Word32) :
    exec (.romFbegin size off) s = execRomFbegin size off s := rfl

@[simp] theorem exec_romFdata_eq (seq : Word32) (data : List Byte) :
    exec (.romFdata seq data) s = execRomFdata seq data s := rfl

@[simp] theorem exec_romFend_eq :
    exec .romFend s = execRomFend s := rfl

@[simp] theorem exec_romParse_eq (frame : List Byte) :
    exec (.romParse frame) s = execRomParse frame s := rfl

@[simp] theorem exec_flashBegin_eq (chk : Word32) (payload : List Byte) :
    exec (.flashBegin chk payload) s = execFlashBegin chk payload s := rfl

@[simp] theorem exec_flashData_eq (chk : Word32) (payload : List Byte) :
    exec (.flashData chk payload) s = execFlashData chk payload s := rfl

@[simp] theorem exec_flashEnd_eq (chk : Word32) (payload : List Byte) :
    exec (.flashEnd chk payload) s = execFlashEnd chk payload s := rfl

@[simp] theorem exec_sync_eq (chk : Word32) (payload : List Byte) :
    exec (.sync chk payload) s = execSync chk payload s := rfl

@[simp] theorem exec_writeReg_eq (chk : Word32) (payload : List Byte) :
    exec (.writeReg chk payload) s = execWriteReg chk payload s := rfl

@[simp] theorem exec_readReg_eq (chk : Word32) (payload : List Byte) :
    exec (.readReg chk payload) s = execReadReg chk payload s := rfl

@[simp] theorem exec_response_eq (rest : List Byte) :
    exec (.response rest) s = execResponse rest s := rfl

@[simp] theorem exec_rxEnd_eq :
    exec .rxEnd s = execRxEnd s := rfl

@[simp] theorem exec_rxEsc_eq :
    exec .rxEsc s = execRxEsc s := rfl

@[simp] theorem exec_rxEscEnd_eq :
    exec .rxEscEnd s = execRxEscEnd s := rfl

@[simp] theorem exec_rxEscEsc_eq :
    exec .rxEscEsc s = execRxEscEsc s := rfl

@[simp] theorem exec_rxOther_eq (b : Byte) :
    exec (.rxOther b) s = execRxOther b s := rfl

@[simp] theorem exec_txEscEnd_eq :
    exec .txEscEnd s = execTxEscEnd s := rfl

@[simp] theorem exec_txEscEsc_eq :
    exec .txEscEsc s = execTxEscEsc s := rfl

@[simp] theorem exec_txLiteral_eq (b : Byte) :
    exec (.txLiteral b) s = execTxLiteral b s := rfl

/-- A received byte's row runs the deframer's transition (R91, R185). -/
theorem exec_rxClass (b : Byte) : exec (rxClass b) s = s.withFrame (.next (s.rxByte b)) := by
  unfold rxClass
  repeat' split
  all_goals simp_all [execRxEnd, execRxEsc, execRxEscEnd, execRxEscEsc, execRxOther, slipEnd,
    slipEsc, slipEscEnd, slipEscEsc]

end Sys2Proof.Machine
end

