-- ==== Sys2Proof/Laws/Invariant.lean ====
section
/-! SUPPORT. The invariant and the shared operations: which fields it reads, and the operations that
cannot break it. -/

namespace Sys2Proof.Machine

/-- The invariant reads these fields alone, and PEND_OP and the mode only through what an awaiting
request or an open frame needs. -/
theorem Inv.congr {s t : State} (h : Inv s) (e : t = { s with
      devPresent := t.devPresent, nqCount := t.nqCount, dmaActive := t.dmaActive, irqHt := t.irqHt,
      irqTc := t.irqTc, irqIdle := t.irqIdle, pendAwait := t.pendAwait, diag := t.diag,
      txLog := t.txLog, atLog := t.atLog, cplLog := t.cplLog, result := t.result,
      uartScript := t.uartScript, uartDraws := t.uartDraws, port := t.port })
    (hn : t.nqCount ≤ s.cfg.nqDepth) (hp : t.pendAwait = true → s.pendAwait = true) : Inv t := by
  rw [e]
  exact {
    params := h.params, lastPos := h.lastPos, tokens := hn, dmaCount := h.dmaCount,
    ringForm := h.ringForm, ringWithin := h.ringWithin, frameForm := h.frameForm,
    frameWithin := h.frameWithin, frameLen := h.frameLen, idleEmpty := h.idleEmpty,
    frameOpened := h.frameOpened, truncFull := h.truncFull, idleIrq := h.idleIrq,
    pendFlashing := fun x => h.pendFlashing (hp x), openFlashing := h.openFlashing,
    closedEmpty := h.closedEmpty, openEncoded := h.openEncoded, unconfigured := h.unconfigured,
    pendBuilt := fun x => h.pendBuilt (hp x) }

theorem Inv.ret {s : State} (h : Inv s) (c : ResultCode) (v : Nat) : Inv (s.ret c v) :=
  h.congr rfl h.tokens id

theorem Inv.setDiag {s : State} (h : Inv s) (bits : BitVec 4) : Inv (s.setDiag bits) :=
  h.congr rfl h.tokens id

theorem Inv.takeToken {s : State} (h : Inv s) : Inv s.takeToken :=
  h.congr rfl (Nat.le_trans (Nat.sub_le _ _) h.tokens) id

theorem Inv.resolve {s : State} (h : Inv s) (c : CompletionCode) (op st : Byte) (v : Word32) :
    Inv (s.resolve c op st v) :=
  h.congr rfl h.tokens (fun x => absurd x Bool.false_ne_true)

theorem Inv.failPending {s : State} (h : Inv s) (c : CompletionCode) : Inv (s.failPending c) := by
  rcases s.failPending_cases c with ⟨-, e⟩ | ⟨-, e⟩ <;> rw [e]
  · exact h.resolve _ _ _ _
  · exact h

theorem Inv.romParse {s : State} (h : Inv s) (p : List Byte) : Inv (s.romParse p) := by
  obtain ⟨bits, r, -, e⟩ := s.romParse_effect p
  rw [e s rfl rfl rfl]
  refine h.congr rfl h.tokens fun x => ?_
  cases hp : s.pendAwait
  · simp [hp] at x
  · rfl

theorem Inv.sendWire {s : State} (h : Inv s) (bs : List Byte) : Inv (s.sendWire bs) := by
  rw [s.sendWire_frame bs]
  exact h.congr rfl h.tokens id

theorem Inv.deframerReset {s : State} (h : Inv s) : Inv s.deframerReset :=
  { params := h.params, lastPos := h.lastPos, tokens := h.tokens, dmaCount := h.dmaCount,
    ringForm := h.ringForm, ringWithin := h.ringWithin, frameForm := h.frameForm,
    frameWithin := h.frameWithin, frameLen := Nat.zero_le _, idleEmpty := fun _ => ⟨rfl, rfl⟩,
    frameOpened := fun x => absurd rfl x, truncFull := fun x => absurd x Bool.false_ne_true,
    idleIrq := h.idleIrq, pendFlashing := h.pendFlashing, openFlashing := h.openFlashing,
    closedEmpty := h.closedEmpty, openEncoded := h.openEncoded, unconfigured := h.unconfigured,
    pendBuilt := h.pendBuilt }

/-- A byte appended inside a frame, and the state it leaves the deframer in. -/
theorem Inv.append {s : State} (h : Inv s) (v : Byte) (st : RxfState) (hs : s.rxfState ≠ .idle)
    (hst : st ≠ .idle) : Inv { s.append v with rxfState := st } := by
  obtain ⟨h1, h2⟩ := h.frameOpened hs
  rcases s.append_cases v with ⟨hl, e⟩ | ⟨hl, e⟩ <;> rw [e]
  · exact {
      params := h.params, lastPos := h.lastPos, tokens := h.tokens, dmaCount := h.dmaCount,
      ringForm := h.ringForm, ringWithin := h.ringWithin,
      frameForm := Memory.write_wf h.frameForm _ _,
      frameWithin := Memory.write_within h.frameWithin hl _, frameLen := hl,
      idleEmpty := fun x => absurd x hst,
      frameOpened := fun _ =>
        ⟨Nat.succ_pos _, (Memory.read_write_other _ _ (by omega)).trans h2⟩,
      truncFull := fun x => absurd (h.truncFull x) (by omega),
      idleIrq := h.idleIrq, pendFlashing := h.pendFlashing, openFlashing := h.openFlashing,
      closedEmpty := h.closedEmpty, openEncoded := h.openEncoded, unconfigured := h.unconfigured,
      pendBuilt := h.pendBuilt }
  · exact {
      params := h.params, lastPos := h.lastPos, tokens := h.tokens, dmaCount := h.dmaCount,
      ringForm := h.ringForm, ringWithin := h.ringWithin, frameForm := h.frameForm,
      frameWithin := h.frameWithin, frameLen := h.frameLen, idleEmpty := fun x => absurd x hst,
      frameOpened := fun _ => ⟨h1, h2⟩, truncFull := fun _ => Nat.le_antisymm h.frameLen hl,
      idleIrq := h.idleIrq, pendFlashing := h.pendFlashing, openFlashing := h.openFlashing,
      closedEmpty := h.closedEmpty, openEncoded := h.openEncoded, unconfigured := h.unconfigured,
      pendBuilt := h.pendBuilt }

/-- A byte appended inside a frame. -/
theorem Inv.append_same {s : State} (h : Inv s) (v : Byte) (hs : s.rxfState ≠ .idle) :
    Inv (s.append v) := by
  have e : { s.append v with rxfState := s.rxfState } = s.append v := by
    rcases s.append_cases v with ⟨-, e⟩ | ⟨-, e⟩ <;> rw [e]
  exact e ▸ h.append v s.rxfState hs hs

/-- A frame opened from outside one (R186). -/
theorem Inv.startFrame {s : State} (h : Inv s) (hs : s.rxfState = .idle) : Inv s.startFrame := by
  obtain ⟨h0, ht⟩ := h.idleEmpty hs
  have hl : s.rxfLen < frameCap := by rw [h0]; decide
  have e : s.startFrame = { s with
      rxfState := .inFrame, frame := s.frame.write s.rxfLen slipEnd, rxfLen := s.rxfLen + 1 } := by
    unfold State.startFrame State.append
    exact if_pos hl
  rw [e]
  exact {
    params := h.params, lastPos := h.lastPos, tokens := h.tokens, dmaCount := h.dmaCount,
    ringForm := h.ringForm, ringWithin := h.ringWithin,
    frameForm := Memory.write_wf h.frameForm _ _,
    frameWithin := Memory.write_within h.frameWithin hl _, frameLen := hl,
    idleEmpty := fun x => RxfState.noConfusion x,
    frameOpened := fun _ =>
      ⟨Nat.succ_pos _, by rw [h0]; exact Memory.read_write_same h.frameForm _ _⟩,
    truncFull := fun x => absurd (h.truncFull x) (by omega),
    idleIrq := h.idleIrq, pendFlashing := h.pendFlashing, openFlashing := h.openFlashing,
    closedEmpty := h.closedEmpty, openEncoded := h.openEncoded, unconfigured := h.unconfigured,
    pendBuilt := h.pendBuilt }

/-- The invariant across one received byte (R185). -/
theorem Inv.rxByte {s : State} (h : Inv s) (b : Byte) : Inv (s.rxByte b) := by
  unfold State.rxByte
  split
  · next hs =>
    split
    · exact h.startFrame hs
    · exact h
  · next hs =>
    have hi : s.rxfState ≠ .idle := by rw [hs]; decide
    obtain ⟨h1, h2⟩ := h.frameOpened hi
    split
    · exact {
        params := h.params, lastPos := h.lastPos, tokens := h.tokens, dmaCount := h.dmaCount,
        ringForm := h.ringForm, ringWithin := h.ringWithin, frameForm := h.frameForm,
        frameWithin := h.frameWithin, frameLen := h.frameLen,
        idleEmpty := fun x => RxfState.noConfusion x,
        frameOpened := fun _ => ⟨h1, h2⟩, truncFull := h.truncFull,
        idleIrq := h.idleIrq, pendFlashing := h.pendFlashing, openFlashing := h.openFlashing,
        closedEmpty := h.closedEmpty, openEncoded := h.openEncoded,
        unconfigured := h.unconfigured, pendBuilt := h.pendBuilt }
    · split
      · exact h
      · split
        · exact ((h.append_same _ hi).romParse _).deframerReset
        · exact h.append_same _ hi
  · next hs =>
    have hi : s.rxfState ≠ .idle := by rw [hs]; decide
    split
    · exact h.append _ _ hi (by decide)
    · split
      · exact h.append _ _ hi (by decide)
      · exact ((h.setDiag _).failPending _).deframerReset

theorem Inv.rxBytes {s : State} (h : Inv s) (bs : List Byte) : Inv (s.rxBytes bs) := by
  induction bs generalizing s with
  | nil => exact h
  | cons b bs ih => exact ih (h.rxByte b)

/-- The invariant across the common build sequence (R221), for an opcode the block builds. -/
theorem Inv.romBuild {s : State} (h : Inv s) (opcode : Byte) (payload : List Byte) (chk : Word32)
    (ho : opcode ∈ builtOpcodes) : Inv (s.romBuild opcode payload chk) := by
  rcases s.romBuild_cases opcode payload chk with ⟨-, e⟩ | ⟨-, -, e⟩ | ⟨-, -, -, e⟩ |
    ⟨⟨-, hm, -, -⟩, ha, e⟩ | ⟨-, -, e⟩ <;> rw [e]
  · exact h.ret _ _
  · exact h.ret _ _
  · exact h.ret _ _
  · have hs := h.sendWire (requestFrame opcode payload chk)
    have hmode : (s.sendWire (requestFrame opcode payload chk)).mode = s.mode := by
      rw [s.sendWire_frame]
    rw [s.sendWire_accepted ha] at hs hmode
    exact {
      params := hs.params, lastPos := hs.lastPos, tokens := hs.tokens, dmaCount := hs.dmaCount,
      ringForm := hs.ringForm, ringWithin := hs.ringWithin, frameForm := hs.frameForm,
      frameWithin := hs.frameWithin, frameLen := hs.frameLen, idleEmpty := hs.idleEmpty,
      frameOpened := hs.frameOpened, truncFull := hs.truncFull, idleIrq := hs.idleIrq,
      pendFlashing := fun _ => hmode.trans hm, openFlashing := hs.openFlashing,
      closedEmpty := hs.closedEmpty, openEncoded := hs.openEncoded,
      unconfigured := hs.unconfigured, pendBuilt := fun _ => ho }
  · exact h.sendWire _

end Sys2Proof.Machine
end

