-- ==== Sys2Proof/Laws/PerInstr.lean ====
section
/-! SUPPORT. One lemma per instruction: the fixed bits that spec/opcode_table.json gives its row stand
at the head of its encoding, and those of no other row of its format do. -/

namespace Sys2Proof.Laws

/-- The rows of spec/opcode_table.json that fix bits: format and leading bytes. RX_OTHER and
TX_LITERAL fix none: they are of lowest priority. -/
def fixedRows : List (Format × List Byte) :=
  [(.hostOp, [0x01#8]), (.hostOp, [0x02#8]), (.hostOp, [0x03#8]),
   (.hostOp, [0x04#8]), (.hostOp, [0x05#8]), (.hostOp, [0x10#8]),
   (.hostOp, [0x11#8]), (.hostOp, [0x12#8]), (.hostOp, [0x20#8]),
   (.hostOp, [0x21#8]), (.hostOp, [0x22#8]), (.hostOp, [0x23#8]),
   (.hostOp, [0x30#8]), (.hostOp, [0x31#8]), (.hostOp, [0x32#8]),
   (.hostOp, [0x33#8]), (.hostOp, [0x34#8]), (.hostOp, [0x35#8]),
   (.romRequest, [0x00#8, 0x02#8]), (.romRequest, [0x00#8, 0x03#8]), (.romRequest, [0x00#8, 0x04#8]),
   (.romRequest, [0x00#8, 0x08#8]), (.romRequest, [0x00#8, 0x09#8]), (.romRequest, [0x00#8, 0x0A#8]),
   (.romResponse, [0x01#8]), (.rxByte, [0xC0#8]), (.rxByte, [0xDB#8]),
   (.rxByte, [0xDC#8]), (.rxByte, [0xDD#8]), (.txByte, [0xC0#8]),
   (.txByte, [0xDB#8])]

/-- The row of a constructor, if it fixes bits. -/
def fixedRow : Instr → List (Format × List Byte)
  | .setmode _ => [(.hostOp, [0x01#8])]
  | .getmode => [(.hostOp, [0x02#8])]
  | .setdev _ => [(.hostOp, [0x03#8])]
  | .cancel => [(.hostOp, [0x04#8])]
  | .rddiag => [(.hostOp, [0x05#8])]
  | .rxsig _ => [(.hostOp, [0x10#8])]
  | .drain => [(.hostOp, [0x11#8])]
  | .send _ => [(.hostOp, [0x12#8])]
  | .slipBegin => [(.hostOp, [0x20#8])]
  | .slipByte _ => [(.hostOp, [0x21#8])]
  | .slipEnd => [(.hostOp, [0x22#8])]
  | .slipRxbyte _ => [(.hostOp, [0x23#8])]
  | .romSync => [(.hostOp, [0x30#8])]
  | .romReadreg _ => [(.hostOp, [0x31#8])]
  | .romFbegin _ _ => [(.hostOp, [0x32#8])]
  | .romFdata _ _ => [(.hostOp, [0x33#8])]
  | .romFend => [(.hostOp, [0x34#8])]
  | .romParse _ => [(.hostOp, [0x35#8])]
  | .flashBegin _ _ => [(.romRequest, [0x00#8, 0x02#8])]
  | .flashData _ _ => [(.romRequest, [0x00#8, 0x03#8])]
  | .flashEnd _ _ => [(.romRequest, [0x00#8, 0x04#8])]
  | .sync _ _ => [(.romRequest, [0x00#8, 0x08#8])]
  | .writeReg _ _ => [(.romRequest, [0x00#8, 0x09#8])]
  | .readReg _ _ => [(.romRequest, [0x00#8, 0x0A#8])]
  | .response _ => [(.romResponse, [0x01#8])]
  | .rxEnd => [(.rxByte, [0xC0#8])]
  | .rxEsc => [(.rxByte, [0xDB#8])]
  | .rxEscEnd => [(.rxByte, [0xDC#8])]
  | .rxEscEsc => [(.rxByte, [0xDD#8])]
  | .rxOther _ => []
  | .txEscEnd => [(.txByte, [0xC0#8])]
  | .txEscEsc => [(.txByte, [0xDB#8])]
  | .txLiteral _ => []

/-- Among the rows of its format, an encoding has exactly its own row's fixed bits. -/
def FixedBits.Statement (i : Instr) : Prop :=
  i.wellFormed = true →
    fixedRows.filter (fun r => decide (r.1 = i.format) && r.2.isPrefixOf (encode i)) = fixedRow i

theorem FixedBits.setmode (m : Byte) : FixedBits.Statement (.setmode m) :=
  fun _ => rfl

theorem FixedBits.getmode : FixedBits.Statement .getmode :=
  fun _ => rfl

theorem FixedBits.setdev (p : Byte) : FixedBits.Statement (.setdev p) :=
  fun _ => rfl

theorem FixedBits.cancel : FixedBits.Statement .cancel :=
  fun _ => rfl

theorem FixedBits.rddiag : FixedBits.Statement .rddiag :=
  fun _ => rfl

theorem FixedBits.rxsig (src : Byte) : FixedBits.Statement (.rxsig src) :=
  fun _ => rfl

theorem FixedBits.drain : FixedBits.Statement .drain :=
  fun _ => rfl

theorem FixedBits.send (data : List Byte) : FixedBits.Statement (.send data) :=
  fun _ => rfl

theorem FixedBits.slipBegin : FixedBits.Statement .slipBegin :=
  fun _ => rfl

theorem FixedBits.slipByte (b : Byte) : FixedBits.Statement (.slipByte b) :=
  fun _ => rfl

theorem FixedBits.slipEnd : FixedBits.Statement .slipEnd :=
  fun _ => rfl

theorem FixedBits.slipRxbyte (b : Byte) : FixedBits.Statement (.slipRxbyte b) :=
  fun _ => rfl

theorem FixedBits.romSync : FixedBits.Statement .romSync :=
  fun _ => rfl

theorem FixedBits.romReadreg (addr : Word32) : FixedBits.Statement (.romReadreg addr) :=
  fun _ => rfl

theorem FixedBits.romFbegin (size : Word32) (off : Word32) :
    FixedBits.Statement (.romFbegin size off) :=
  fun _ => rfl

theorem FixedBits.romFdata (seq : Word32) (data : List Byte) :
    FixedBits.Statement (.romFdata seq data) :=
  fun _ => rfl

theorem FixedBits.romFend : FixedBits.Statement .romFend :=
  fun _ => rfl

theorem FixedBits.romParse (frame : List Byte) : FixedBits.Statement (.romParse frame) :=
  fun _ => rfl

theorem FixedBits.flashBegin (chk : Word32) (payload : List Byte) :
    FixedBits.Statement (.flashBegin chk payload) :=
  fun _ => rfl

theorem FixedBits.flashData (chk : Word32) (payload : List Byte) :
    FixedBits.Statement (.flashData chk payload) :=
  fun _ => rfl

theorem FixedBits.flashEnd (chk : Word32) (payload : List Byte) :
    FixedBits.Statement (.flashEnd chk payload) :=
  fun _ => rfl

theorem FixedBits.sync (chk : Word32) (payload : List Byte) :
    FixedBits.Statement (.sync chk payload) :=
  fun _ => rfl

theorem FixedBits.writeReg (chk : Word32) (payload : List Byte) :
    FixedBits.Statement (.writeReg chk payload) :=
  fun _ => rfl

theorem FixedBits.readReg (chk : Word32) (payload : List Byte) :
    FixedBits.Statement (.readReg chk payload) :=
  fun _ => rfl

theorem FixedBits.response (rest : List Byte) : FixedBits.Statement (.response rest) :=
  fun _ => rfl

theorem FixedBits.rxEnd : FixedBits.Statement .rxEnd :=
  fun _ => rfl

theorem FixedBits.rxEsc : FixedBits.Statement .rxEsc :=
  fun _ => rfl

theorem FixedBits.rxEscEnd : FixedBits.Statement .rxEscEnd :=
  fun _ => rfl

theorem FixedBits.rxEscEsc : FixedBits.Statement .rxEscEsc :=
  fun _ => rfl

theorem FixedBits.txEscEnd : FixedBits.Statement .txEscEnd :=
  fun _ => rfl

theorem FixedBits.txEscEsc : FixedBits.Statement .txEscEsc :=
  fun _ => rfl

/-- A byte with a class of its own in R91 is not RX_OTHER's. -/
theorem FixedBits.rxOther (b : Byte) : FixedBits.Statement (.rxOther b) := by
  intro h
  simp only [Instr.wellFormed, isOtherByte, Bool.not_eq_true', Bool.or_eq_false_iff,
    beq_eq_false_iff_ne] at h
  obtain ⟨⟨⟨h1, h2⟩, h3⟩, h4⟩ := h
  have e1 : (0xC0#8 == b) = false := beq_false_of_ne h1.symm
  have e2 : (0xDB#8 == b) = false := beq_false_of_ne h2.symm
  have e3 : (0xDC#8 == b) = false := beq_false_of_ne h3.symm
  have e4 : (0xDD#8 == b) = false := beq_false_of_ne h4.symm
  simp [fixedRows, fixedRow, Instr.format, encode, List.filter, List.isPrefixOf, e1, e2, e3, e4]

/-- A byte that R181 escapes is not TX_LITERAL's. -/
theorem FixedBits.txLiteral (b : Byte) : FixedBits.Statement (.txLiteral b) := by
  intro h
  simp only [Instr.wellFormed, isLiteralByte, Bool.not_eq_true', Bool.or_eq_false_iff,
    beq_eq_false_iff_ne] at h
  obtain ⟨h1, h2⟩ := h
  have e1 : (0xC0#8 == b) = false := beq_false_of_ne h1.symm
  have e2 : (0xDB#8 == b) = false := beq_false_of_ne h2.symm
  simp [fixedRows, fixedRow, Instr.format, encode, List.filter, List.isPrefixOf, e1, e2]

end Sys2Proof.Laws
end

