-- ==== Sys2Proof/Machine/Assembly.lean ====
section
/-! DEFINITION. The assembly lines of spec/30_encoding.md R103, as functions from a line's characters
to the bytes of its operation (log 25). -/

namespace Sys2Proof.Machine

/-- The tokens of a line. -/
inductive AsmToken where
  | atom (cs : List Char)
  | comma
  | openList
  | closeList
deriving DecidableEq, Repr

/-- The operands of a line: a number or a named value, or a bracketed byte list. -/
inductive AsmOperand where
  | atom (cs : List Char)
  | bytes (bs : List Byte)
deriving DecidableEq, Repr

/-- The atom collected so far (last character first), if any, before later tokens. -/
def asmFlush (acc : List Char) (ts : List AsmToken) : List AsmToken :=
  if acc = [] then ts else .atom acc.reverse :: ts

/-- Split a line into tokens; a semicolon opens a comment. -/
def asmTokens : List Char → List Char → List AsmToken
  | [], acc => asmFlush acc []
  | c :: cs, acc =>
    if c = ';' then asmFlush acc []
    else if c = ' ' ∨ c = '\t' then asmFlush acc (asmTokens cs [])
    else if c = ',' then asmFlush acc (.comma :: asmTokens cs [])
    else if c = '[' then asmFlush acc (.openList :: asmTokens cs [])
    else if c = ']' then asmFlush acc (.closeList :: asmTokens cs [])
    else asmTokens cs (c :: acc)

/-- The value of a hexadecimal digit. -/
def asmDigit (c : Char) : Option Nat :=
  if 48 ≤ c.toNat ∧ c.toNat ≤ 57 then some (c.toNat - 48)
  else if 65 ≤ c.toNat ∧ c.toNat ≤ 70 then some (c.toNat - 55)
  else if 97 ≤ c.toNat ∧ c.toNat ≤ 102 then some (c.toNat - 87)
  else none

/-- Digits of a base, most significant first. -/
def asmDigits (base : Nat) : List Char → Nat → Option Nat
  | [], acc => some acc
  | c :: cs, acc =>
    match asmDigit c with
    | some d => if d < base then asmDigits base cs (acc * base + d) else none
    | none => none

/-- A number: decimal, or hexadecimal after 0x. -/
def asmNumber (cs : List Char) : Option Nat :=
  match cs with
  | [] => none
  | ['0', 'x'] => none
  | '0' :: 'x' :: rest => asmDigits 16 rest 0
  | _ => asmDigits 10 cs 0

/-- A number that fits `w` bits. -/
def asmField (w : Nat) (cs : List Char) : Option (BitVec w) :=
  match asmNumber cs with
  | some n => if n < 2 ^ w then some (BitVec.ofNat w n) else none
  | none => none

/-- The operands of a line: `open?` holds the list being read (last byte first), `need` says that an
operand or element must come next. -/
def asmOperands : List AsmToken → List AsmOperand → Option (List Byte) → Bool →
    Option (List AsmOperand)
  | [], done, none, need => if need = true ∧ done ≠ [] then none else some done.reverse
  | .atom cs :: ts, done, none, true => asmOperands ts (.atom cs :: done) none false
  | .openList :: ts, done, none, true => asmOperands ts done (some []) true
  | .comma :: ts, done, none, false => asmOperands ts done none true
  | .atom cs :: ts, done, some bs, true =>
    match asmField 8 cs with
    | some b => asmOperands ts done (some (b :: bs)) false
    | none => none
  | .comma :: ts, done, some bs, false => asmOperands ts done (some bs) true
  | .closeList :: ts, done, some bs, need =>
    if need = true ∧ bs ≠ [] then none else asmOperands ts (.bytes bs.reverse :: done) none false
  | _, _, _, _ => none

/-- SETMODE's operand: a byte, or a named mode (R103). -/
def asmMode (cs : List Char) : Option Byte :=
  if String.ofList cs = "RUNNING" then some 1#8
  else if String.ofList cs = "FLASHING" then some 2#8
  else asmField 8 cs

/-- RXSIG's operand: a byte, or a named source (R103). -/
def asmSource (cs : List Char) : Option Byte :=
  if String.ofList cs = "HT" then some 0#8
  else if String.ofList cs = "TC" then some 1#8
  else if String.ofList cs = "IDLE" then some 2#8
  else asmField 8 cs

/-- An operation without operands. -/
def asmPlain (mnemonic : String) : Option Instr :=
  if mnemonic = "GETMODE" then some .getmode
  else if mnemonic = "CANCEL" then some .cancel
  else if mnemonic = "RDDIAG" then some .rddiag
  else if mnemonic = "DRAIN" then some .drain
  else if mnemonic = "SLIP_BEGIN" then some .slipBegin
  else if mnemonic = "SLIP_END" then some .slipEnd
  else if mnemonic = "ROM_SYNC" then some .romSync
  else if mnemonic = "ROM_FEND" then some .romFend
  else none

/-- An operation with one numeric or named operand. -/
def asmOne (mnemonic : String) (a : List Char) : Option Instr :=
  if mnemonic = "SETMODE" then (asmMode a).map .setmode
  else if mnemonic = "SETDEV" then (asmField 8 a).map .setdev
  else if mnemonic = "RXSIG" then (asmSource a).map .rxsig
  else if mnemonic = "SLIP_BYTE" then (asmField 8 a).map .slipByte
  else if mnemonic = "SLIP_RXBYTE" then (asmField 8 a).map .slipRxbyte
  else if mnemonic = "ROM_READREG" then (asmField 32 a).map .romReadreg
  else none

/-- An operation with one byte list. -/
def asmData (mnemonic : String) (bs : List Byte) : Option Instr :=
  if mnemonic = "SEND" then some (.send bs)
  else if mnemonic = "ROM_PARSE" then some (.romParse bs)
  else none

/-- The operation of a mnemonic and its operands (R100, R103). -/
def asmInstr (mnemonic : String) (ops : List AsmOperand) : Option Instr :=
  match ops with
  | [] => asmPlain mnemonic
  | [.atom a] => asmOne mnemonic a
  | [.bytes bs] => asmData mnemonic bs
  | [.atom a, .atom b] =>
    if mnemonic = "ROM_FBEGIN" then
      match asmField 32 a, asmField 32 b with
      | some size, some off => some (.romFbegin size off)
      | _, _ => none
    else none
  | [.atom a, .bytes bs] =>
    if mnemonic = "ROM_FDATA" then (asmField 32 a).map fun seq => .romFdata seq bs else none
  | _ => none

/-- The pseudo-operation of a mnemonic and its operands (R104). -/
def asmPseudo (mnemonic : String) (ops : List AsmOperand) : Option PseudoOp :=
  match ops with
  | [.bytes (b :: bs)] =>
    if mnemonic = "SLIP_FRAME" then some (.slipFrame (b :: bs))
    else if mnemonic = "RXFEED" then some (.rxfeed (b :: bs))
    else none
  | [] =>
    if mnemonic = "ENTER_FLASHING" then some .enterFlashing
    else if mnemonic = "LEAVE_FLASHING" then some .leaveFlashing
    else none
  | _ => none

/-- What a line stands for. -/
inductive AsmLine where
  /-- An empty line, or a comment alone. -/
  | empty
  | op (i : Instr)
  | pseudo (p : PseudoOp)
deriving DecidableEq, Repr

/-- Read one line (R103, R104); none where it is no line of the syntax, or an operand does not fit
its field. -/
def asmLine (line : List Char) : Option AsmLine :=
  match asmTokens line [] with
  | [] => some .empty
  | .atom mn :: rest =>
    match asmOperands rest [] none true with
    | none => none
    | some ops =>
      match asmInstr (String.ofList mn) ops with
      | some i => if i.wellFormed = true then some (.op i) else none
      | none => (asmPseudo (String.ofList mn) ops).map .pseudo
  | _ => none

/-- The bytes of a line that is one operation (R103). -/
def assemble (line : List Char) : Option (List Byte) :=
  match asmLine line with
  | some (.op i) => some (encode i)
  | _ => none

end Sys2Proof.Machine
end

