-- ==== Sys2Proof/Tests/Slice0.lean ====
section
/-! SUPPORT. Our own tests: ill-formed terms, words written out from the spec's encodings, single steps
from the vectors of spec/95_test_vectors.md, and a witness for the hypotheses of every obligation. -/

namespace Sys2Proof.Tests

open Sys2Proof Sys2Proof.Machine

/-! ### Helpers -/

/-- Bytes from numbers. -/
def hx (l : List Nat) : List Byte := l.map (BitVec.ofNat 8)

/-- The next state of an outcome satisfies a test. -/
def after (o : Host.Outcome State Fault Refusal) (p : State → Bool) : Bool :=
  match o with
  | .next t => p t
  | .fault _ => false
  | .refused _ => false

/-- The parameters of the byte-source vectors: RX_CAP = 16, NQ_DEPTH = 1. -/
def tiny : Params := { Params.default with rxCap := 16, nqDepth := 1 }

/-- The start of the byte-source vectors: Running, device present, DMA at position 0. -/
def running : State :=
  { State.resetWith tiny 16 [] [] with
    mode := .running, idleIrqEn := true, devPresent := true, dmaActive := true }

/-- The start of the framer, deframer and codec vectors: Flashing, and a UART that accepts. -/
def flashing : State :=
  { running with mode := .flashing, idleIrqEn := false, uartScript := [.accept] }

/-- The same with a UART that fails after `k` bytes. -/
def failing (k : Nat) : State := { flashing with uartScript := [.fail k] }

/-- The same with a request awaiting. -/
def awaiting (opcode : Byte) : State := { flashing with pendAwait := true, pendOp := opcode }

/-- The same with an open frame. -/
def opened (p : List Byte) : State := { flashing with txOpen := true, txPend := 0xC0#8 :: p }

/-- The same with the deframer holding `bs`. -/
def holding (st : RxfState) (bs : List Byte) : State :=
  { flashing with
    rxfState := st, rxfLen := bs.length,
    frame := (bs.zipIdx).map (fun c => (c.2, c.1)) }

/-- The same with the deframer full. -/
def full (st : RxfState) : State :=
  { flashing with rxfState := st, rxfLen := 128, frame := [(0, 0xC0#8)] }

/-! ### Ill-formed terms are refused -/

theorem not_fits16 {data : List Byte} (h : 65536 ≤ data.length) : fits16 data = false :=
  decide_eq_false (by omega)

/-- A length operand has 16 bits (R101): 65536 bytes are too many. -/
theorem test_data_too_long (data : List Byte) (h : data.length = 65536) :
    Instr.wellFormed (.send data) = false ∧ Instr.wellFormed (.romFdata 0#32 data) = false :=
  ⟨not_fits16 h.ge, not_fits16 h.ge⟩

theorem test_romParse_too_long (frame : List Byte) (h : frame.length = 256) :
    Instr.wellFormed (.romParse frame) = false :=
  decide_eq_false (by omega)

/-- The length field of a request packet has 16 bits (R92). -/
theorem test_request_too_long (data : List Byte) (h : data.length = 65536) :
    Instr.wellFormed (.flashBegin 0#32 data) = false ∧
    Instr.wellFormed (.flashData 0#32 data) = false ∧
    Instr.wellFormed (.flashEnd 0#32 data) = false ∧
    Instr.wellFormed (.sync 0#32 data) = false ∧
    Instr.wellFormed (.writeReg 0#32 data) = false ∧
    Instr.wellFormed (.readReg 0#32 data) = false :=
  ⟨not_fits16 h.ge, not_fits16 h.ge, not_fits16 h.ge, not_fits16 h.ge, not_fits16 h.ge,
    not_fits16 h.ge⟩

theorem test_rxOther_special :
    Instr.wellFormed (.rxOther 0xC0#8) = false ∧ Instr.wellFormed (.rxOther 0xDB#8) = false ∧
    Instr.wellFormed (.rxOther 0xDC#8) = false ∧ Instr.wellFormed (.rxOther 0xDD#8) = false := by
  decide

theorem test_txLiteral_special :
    Instr.wellFormed (.txLiteral 0xC0#8) = false ∧
    Instr.wellFormed (.txLiteral 0xDB#8) = false := by decide

/-! ### Words written out from R100, R101, R92, R94, R91 and R181 -/

theorem test_decode_setmode :
    decode .hostOp (hx [0x01, 0x02]) = .ok (.setmode 2#8, []) := by decide

theorem test_decode_getmode : decode .hostOp (hx [0x02]) = .ok (.getmode, []) := by decide

theorem test_decode_setdev : decode .hostOp (hx [0x03, 0x01]) = .ok (.setdev 1#8, []) := by decide

theorem test_decode_cancel : decode .hostOp (hx [0x04]) = .ok (.cancel, []) := by decide

theorem test_decode_rddiag : decode .hostOp (hx [0x05]) = .ok (.rddiag, []) := by decide

theorem test_decode_rxsig : decode .hostOp (hx [0x10, 0x01]) = .ok (.rxsig 1#8, []) := by decide

theorem test_decode_drain : decode .hostOp (hx [0x11]) = .ok (.drain, []) := by decide

theorem test_decode_send :
    decode .hostOp (hx [0x12, 0x02, 0x00, 0x41, 0x54, 0x11]) =
      .ok (.send (hx [0x41, 0x54]), hx [0x11]) := by decide

theorem test_decode_slipBegin : decode .hostOp (hx [0x20]) = .ok (.slipBegin, []) := by decide

theorem test_decode_slipByte :
    decode .hostOp (hx [0x21, 0xDB]) = .ok (.slipByte 0xDB#8, []) := by decide

theorem test_decode_slipEnd : decode .hostOp (hx [0x22]) = .ok (.slipEnd, []) := by decide

theorem test_decode_slipRxbyte :
    decode .hostOp (hx [0x23, 0xC0]) = .ok (.slipRxbyte 0xC0#8, []) := by decide

theorem test_decode_romSync : decode .hostOp (hx [0x30]) = .ok (.romSync, []) := by decide

/-- The example of R103. -/
theorem test_decode_romReadreg :
    decode .hostOp (hx [0x31, 0xDB, 0xC0, 0x00, 0x00]) = .ok (.romReadreg 0x0000C0DB#32, []) := by
  decide

theorem test_decode_romFbegin :
    decode .hostOp (hx [0x32, 0xF0, 0x0F, 0x00, 0x00, 0x04, 0x03, 0x02, 0x01]) =
      .ok (.romFbegin 0xFF0#32 0x01020304#32, []) := by decide

theorem test_decode_romFdata :
    decode .hostOp (hx [0x33, 0x04, 0x03, 0x02, 0x01, 0x02, 0x00, 0xC0, 0x01]) =
      .ok (.romFdata 0x01020304#32 (hx [0xC0, 0x01]), []) := by decide

theorem test_decode_romFend : decode .hostOp (hx [0x34]) = .ok (.romFend, []) := by decide

theorem test_decode_romParse :
    decode .hostOp (hx [0x35, 0x05, 0xC0, 0x01, 0x08, 0x00, 0xC0]) =
      .ok (.romParse (hx [0xC0, 0x01, 0x08, 0x00, 0xC0]), []) := by decide

theorem test_decode_flashBegin :
    decode .romRequest (hx [0x00, 0x02, 0x01, 0x00, 0x04, 0x03, 0x02, 0x01, 0xAA]) =
      .ok (.flashBegin 0x01020304#32 (hx [0xAA]), []) := by decide

theorem test_decode_flashData :
    decode .romRequest (hx [0x00, 0x03, 0x02, 0x00, 0x2F, 0x00, 0x00, 0x00, 0xC0, 0x01]) =
      .ok (.flashData 0x2F#32 (hx [0xC0, 0x01]), []) := by decide

theorem test_decode_flashEnd :
    decode .romRequest (hx [0x00, 0x04, 0x00, 0x00, 0x00, 0x00, 0x00, 0x00]) =
      .ok (.flashEnd 0#32 [], []) := by decide

theorem test_decode_sync :
    decode .romRequest (hx [0x00, 0x08, 0x01, 0x00, 0x00, 0x00, 0x00, 0x00, 0x07]) =
      .ok (.sync 0#32 (hx [0x07]), []) := by decide

theorem test_decode_writeReg :
    decode .romRequest (hx [0x00, 0x09, 0x00, 0x00, 0x00, 0x00, 0x00, 0x00]) =
      .ok (.writeReg 0#32 [], []) := by decide

theorem test_decode_readReg :
    decode .romRequest
      (hx [0x00, 0x0A, 0x04, 0x00, 0x00, 0x00, 0x00, 0x00, 0x3F, 0xF0, 0x00, 0x50]) =
      .ok (.readReg 0#32 (hx [0x3F, 0xF0, 0x00, 0x50]), []) := by decide

theorem test_decode_response :
    decode .romResponse (hx [0x01, 0x08, 0x00]) = .ok (.response (hx [0x08, 0x00]), []) := by decide

theorem test_decode_received_bytes :
    decode .rxByte (hx [0xC0]) = .ok (.rxEnd, []) ∧
    decode .rxByte (hx [0xDB]) = .ok (.rxEsc, []) ∧
    decode .rxByte (hx [0xDC]) = .ok (.rxEscEnd, []) ∧
    decode .rxByte (hx [0xDD]) = .ok (.rxEscEsc, []) ∧
    decode .rxByte (hx [0x41]) = .ok (.rxOther 0x41#8, []) := by decide

theorem test_decode_framer_bytes :
    decode .txByte (hx [0xC0]) = .ok (.txEscEnd, []) ∧
    decode .txByte (hx [0xDB]) = .ok (.txEscEsc, []) ∧
    decode .txByte (hx [0xDC]) = .ok (.txLiteral 0xDC#8, []) := by decide

theorem test_decode_rejects :
    decode .hostOp (hx [0x06]) = .error (.unknownOp 0x06#8) ∧
    decode .hostOp (hx [0x12, 0x02, 0x00, 0x41]) = .error .truncated ∧
    decode .romRequest (hx [0x01, 0x02, 0x00, 0x00, 0x00, 0x00, 0x00, 0x00]) =
      .error (.notRequest 0x01#8) ∧
    decode .romRequest (hx [0x00, 0x05, 0x00, 0x00, 0x00, 0x00, 0x00, 0x00]) =
      .error (.unlistedRequest 0x05#8) ∧
    decode .romResponse (hx [0x00, 0x08]) = .error (.notResponse (hx [0x00, 0x08])) ∧
    decode .hostOp [] = .error .empty := by decide

theorem test_table_words :
    decodeTableWord 8 0x31 = some (.romReadreg 0#32) ∧
    decodeTableWord 16 0x000A = some (.readReg 0#32 []) ∧
    decodeTableWord 8 0xDB = some .rxEsc ∧ decodeTableWord 8 0x00 = some (.rxOther 0#8) := by
  decide

/-- A line of R103, its example. -/
theorem test_assemble : assemble "ROM_READREG 0x0000C0DB ; addr".toList =
    some (hx [0x31, 0xDB, 0xC0, 0x00, 0x00]) := by decide

/-! ### One step of each instruction -/

/-- MC4. -/
theorem test_setmode_running :
    after (exec (.setmode 1#8) State.reset) (fun t =>
      t.mode == .running && t.idleIrqEn && t.result == some ⟨.ok, 0⟩) = true := by decide

/-- MC5. -/
theorem test_setmode_flashing :
    after (exec (.setmode 2#8) { running with rxfState := .inFrame, rxfLen := 5 }) (fun t =>
      t.mode == .flashing && !t.idleIrqEn && t.rxfState == .idle && t.rxfLen == 0) = true := by
  decide

/-- MC1. -/
theorem test_getmode :
    after (exec .getmode State.reset) (fun t => t.result == some ⟨.ok, 0⟩) = true := by decide

/-- MC9. -/
theorem test_setdev :
    after (exec (.setdev 2#8) running) (fun t =>
      t.devPresent && t.result == some ⟨.badArg, 0⟩) = true := by decide

/-- MC11. -/
theorem test_cancel :
    after (exec .cancel (awaiting 3#8)) (fun t =>
      t.cplLog == [.item ⟨.timeout, 3#8, 0#8, 0#32⟩] && !t.pendAwait) = true := by decide

/-- MC12. -/
theorem test_rddiag :
    after (exec .rddiag { running with diag := 0xA#4 }) (fun t =>
      t.result == some ⟨.ok, 0x0A⟩ && t.diag == 0#4) = true := by decide

/-- BS1. -/
theorem test_rxsig_coalesces :
    after (exec (.rxsig 1#8) { running with nqCount := 1 }) (fun t =>
      t.nqCount == 1 && t.result == some ⟨.ok, 0⟩) = true := by decide

/-- BS3. -/
theorem test_rxsig_rearms :
    after (exec (.rxsig 0#8) flashing) (fun t => t.nqCount == 1 && !t.idleIrqEn) = true := by
  decide

/-- BS10: the drained range wraps, the older part first. -/
theorem test_drain_wraps :
    after (exec .drain { running with
        lastPos := 14, dmaRemaining := 14,
        rxbuf := [(0, 3#8), (1, 4#8), (2, 9#8), (14, 1#8), (15, 2#8)] }) (fun t =>
      t.atLog == [.item 1#8, .item 2#8, .item 3#8, .item 4#8] && t.lastPos == 2 &&
        t.result == some ⟨.ok, 4⟩) = true := by decide

/-- BS9. -/
theorem test_drain_not_configured :
    after (exec .drain { running with mode := .uninitialized, nqCount := 1 }) (fun t =>
      t.nqCount == 0 && t.result == some ⟨.notConfigured, 0⟩) = true := by decide

/-- BS18. -/
theorem test_send_raw :
    after (exec (.send (hx [0xC0, 0xDB])) flashing) (fun t =>
      t.txLog == [.item 0xC0#8, .item 0xDB#8] && t.result == some ⟨.ok, 2⟩) = true := by decide

/-- BS14. -/
theorem test_send_fails :
    after (exec (.send (hx [0x41, 0x54, 0x0D, 0x0A])) (failing 2)) (fun t =>
      t.txLog == [.item 0x41#8, .item 0x54#8] &&
        t.result == some ⟨.uartWriteFail, 2⟩) = true := by decide

/-- FR1. -/
theorem test_slipBegin :
    after (exec .slipBegin flashing) (fun t => t.txOpen && t.txPend == [0xC0#8]) = true := by decide

/-- The example of R183. -/
theorem test_slipByte :
    after (exec (.slipByte 0xDB#8) (opened [])) (fun t =>
      t.txPend == hx [0xC0, 0xDB, 0xDD]) = true := by decide

/-- The example of R184. -/
theorem test_slipEnd :
    after (exec .slipEnd (opened (hx [0xDB, 0xDD]))) (fun t =>
      t.txLog == (hx [0xC0, 0xDB, 0xDD, 0xC0]).map .item && !t.txOpen && t.txPend == [] &&
        t.result == some ⟨.ok, 4⟩) = true := by decide

/-- FR7. -/
theorem test_slipRxbyte_sequencing :
    after (exec (.slipRxbyte 0xC0#8) running) (fun t =>
      t.rxfLen == 0 && t.result == some ⟨.sequencing, 0⟩) = true := by decide

/-- S2, its last byte. -/
theorem test_slipRxbyte :
    after (exec (.slipRxbyte 0xDC#8) (holding .escPending (hx [0xC0, 0x01]))) (fun t =>
      t.rxfState == .inFrame && t.frameBytes == hx [0xC0, 0x01, 0xC0]) = true := by decide

/-- RC1. -/
theorem test_romSync :
    after (exec .romSync flashing) (fun t =>
      t.txLog == (hx ([0xC0, 0x00, 0x08, 0x24, 0x00, 0x00, 0x00, 0x00, 0x00, 0x07, 0x07, 0x12,
          0x20] ++ List.replicate 32 0x55 ++ [0xC0])).map .item &&
        t.pendAwait && t.pendOp == 0x08#8 && t.result == some ⟨.ok, 46⟩) = true := by decide

/-- RC3. -/
theorem test_romReadreg :
    after (exec (.romReadreg 0x0000C0DB#32) flashing) (fun t =>
      t.txLog == (hx [0xC0, 0x00, 0x0A, 0x04, 0x00, 0x00, 0x00, 0x00, 0x00, 0x00, 0x00, 0xDB, 0xDC,
        0xDB, 0xDD, 0xC0]).map .item && t.pendOp == 0x0A#8) = true := by decide

/-- RC6. -/
theorem test_romFbegin :
    after (exec (.romFbegin 1025#32 0x10000#32) flashing) (fun t =>
      t.txLog == (hx [0xC0, 0x00, 0x02, 0x10, 0x00, 0x00, 0x00, 0x00, 0x00, 0x00, 0x00, 0x04, 0x01,
        0x00, 0x00, 0x00, 0x02, 0x00, 0x00, 0x04, 0x00, 0x00, 0x01, 0x00, 0x00, 0xC0]).map
        .item) = true := by decide

/-- RC7. -/
theorem test_romFdata :
    after (exec (.romFdata 0#32 (hx [0xC0, 0x01, 0x02, 0x03])) flashing) (fun t =>
      t.txLog == (hx [0xC0, 0x00, 0x03, 0x0C, 0x00, 0x2F, 0x00, 0x00, 0x00, 0x00, 0x00, 0x00, 0x04,
        0x00, 0x00, 0x00, 0x00, 0xDB, 0xDC, 0x01, 0x02, 0x03, 0xC0]).map .item) = true := by decide

/-- RC11. -/
theorem test_romFdata_empty :
    after (exec (.romFdata 0#32 []) flashing) (fun t =>
      t.txLog == [] && t.result == some ⟨.badArg, 0⟩) = true := by decide

/-- RC12. -/
theorem test_romFend :
    after (exec .romFend flashing) (fun t =>
      t.txLog == (hx [0xC0, 0x00, 0x04, 0x04, 0x00, 0x00, 0x00, 0x00, 0x00, 0x00, 0x00, 0x00, 0x00,
        0xC0]).map .item && t.pendOp == 0x04#8) = true := by decide

/-- The example of R245. -/
theorem test_romParse :
    after (exec (.romParse (hx [0xC0, 0x01, 0x08, 0x00, 0xC0])) (awaiting 8#8)) (fun t =>
      t.cplLog == [.item ⟨.ok, 8#8, 0#8, 0#32⟩] && !t.pendAwait &&
        t.result == some ⟨.ok, 0⟩) = true := by decide

/-- RC4, as the packet its operation builds. -/
theorem test_flashBegin :
    after (exec (.flashBegin 0#32 (hx [0x00, 0x00, 0x0F, 0xF0, 0x00, 0x00, 0x00, 0x04, 0x00, 0x00,
      0x04, 0x00, 0x00, 0x00, 0x00, 0x00])) flashing) (fun t =>
        t.pendOp == 0x02#8 && t.result == some ⟨.ok, 26⟩) = true := by decide

/-- RC8, as the packet its operation builds. -/
theorem test_flashData :
    after (exec (.flashData 0xEF#32 (hx [0x00, 0x00, 0x00, 0x03, 0x00, 0x00, 0x00, 0x02, 0x11, 0x22,
      0x33])) flashing) (fun t =>
        t.pendOp == 0x03#8 && t.result == some ⟨.ok, 21⟩) = true := by decide

/-- RC12, as the packet its operation builds. -/
theorem test_flashEnd :
    after (exec (.flashEnd 0#32 (hx [0x00, 0x00, 0x00, 0x00])) flashing) (fun t =>
      t.pendOp == 0x04#8 && t.result == some ⟨.ok, 14⟩) = true := by decide

/-- RC1, as the packet its operation builds. -/
theorem test_sync :
    after (exec (.sync 0#32 (hx ([0x07, 0x07, 0x12, 0x20] ++ List.replicate 32 0x55))) flashing)
      (fun t => t.pendOp == 0x08#8 && t.result == some ⟨.ok, 46⟩) = true := by decide

/-- RC2, as the packet its operation builds. -/
theorem test_readReg :
    after (exec (.readReg 0#32 (hx [0x3F, 0xF0, 0x00, 0x50])) flashing) (fun t =>
      t.pendOp == 0x0A#8 && t.result == some ⟨.ok, 14⟩) = true := by decide

/-- R228. -/
theorem test_writeReg : exec (.writeReg 0#32 []) flashing = .refused .noBuilder := rfl

/-- S18, its packet. -/
theorem test_response_value :
    after (exec (.response (hx [0x0A, 0x00, 0x00, 0x34, 0xDB, 0xC0, 0x12])) (awaiting 0x0A#8))
      (fun t => t.cplLog == [.item ⟨.ok, 0x0A#8, 0#8, 0x12C0DB34#32⟩]) = true := by decide

/-- S12, its packet. -/
theorem test_response_late :
    after (exec (.response (hx [0x03, 0x00])) (awaiting 8#8)) (fun t =>
      t.diag == 8#4 && t.pendAwait && t.cplLog == []) = true := by decide

/-- S4, its last byte. -/
theorem test_rxEnd :
    after (exec .rxEnd { holding .inFrame (hx [0xC0, 0x01, 0x08, 0x00]) with
        frame := [(0, 0xC0#8), (1, 0x01#8), (2, 0x08#8)],
        pendAwait := true, pendOp := 8#8 }) (fun t =>
      t.rxfState == .idle && t.rxfLen == 0 &&
        t.cplLog == [.item ⟨.ok, 8#8, 0#8, 0#32⟩]) = true := by decide

/-- S8, its last byte. -/
theorem test_rxEnd_bad_escape :
    after (exec .rxEnd { holding .escPending (hx [0xC0, 0x01]) with
        pendAwait := true, pendOp := 8#8 }) (fun t =>
      t.rxfState == .idle && t.diag == 2#4 &&
        t.cplLog == [.item ⟨.framing, 8#8, 0#8, 0#32⟩]) = true := by decide

/-- S3, its last byte. -/
theorem test_rxEsc :
    after (exec .rxEsc (holding .inFrame (hx [0xC0, 0x01]))) (fun t =>
      t.rxfState == .escPending && t.rxfLen == 2) = true := by decide

/-- S5: 0xDC in a frame is stored as it is. -/
theorem test_rxEscEnd :
    after (exec .rxEscEnd (holding .inFrame (hx [0xC0, 0x01, 0x08]))) (fun t =>
      t.frameBytes == hx [0xC0, 0x01, 0x08, 0xDC]) = true := by decide

/-- S18, its first escape. -/
theorem test_rxEscEsc :
    after (exec .rxEscEsc (holding .escPending (hx [0xC0, 0x01]))) (fun t =>
      t.frameBytes == hx [0xC0, 0x01, 0xDB] && t.rxfState == .inFrame) = true := by decide

/-- S17: a byte that does not fit is dropped. -/
theorem test_rxOther_full :
    after (exec (.rxOther 0x41#8) (full .inFrame)) (fun t =>
      t.rxfLen == 128 && t.rxfTrunc && t.diag == 1#4) = true := by decide

/-- S1. -/
theorem test_rxOther_idle :
    after (exec (.rxOther 0x55#8) flashing) (fun t =>
      t.rxfState == .idle && t.rxfLen == 0 && t.diag == 0#4) = true := by decide

/-- W1. -/
theorem test_framer_rows :
    after (exec .txEscEnd (opened [])) (fun t => t.txPend == hx [0xC0, 0xDB, 0xDC]) = true ∧
    after (exec .txEscEsc (opened [])) (fun t => t.txPend == hx [0xC0, 0xDB, 0xDD]) = true ∧
    after (exec (.txLiteral 0xDC#8) (opened [])) (fun t => t.txPend == hx [0xC0, 0xDC]) =
      true := by decide

/-- BS5, its eighth byte. -/
theorem test_dmaRx_half :
    after (step { running with dmaRemaining := 9, port := [.agent (.dmaRx 7#8)] }) (fun t =>
      t.irqHt && !t.irqTc && t.dmaRemaining == 8 && t.rxbuf == [(7, 7#8)]) = true := by decide

/-- BS6, its last byte. -/
theorem test_dmaRx_reload :
    after (step { running with dmaRemaining := 1, port := [.agent (.dmaRx 7#8)] }) (fun t =>
      t.irqTc && t.dmaRemaining == 16 && t.rxbuf == [(15, 7#8)]) = true := by decide

/-- W5. -/
theorem test_fold :
    fold 0xEF#32 (hx [0xC0, 0x01, 0x02, 0x03]) = 0x2F#32 ∧
    fold 0xEF#32 (hx [0xC0, 0x01, 0x02, 0x04]) = 0x28#32 := by decide

/-! ### The hypotheses of the obligations are met

One witness for each statement that has hypotheses, for each of its clauses, at the boundary values of
the clause. -/

/-- A running block with a device satisfies the invariant. -/
theorem running_inv : Inv running where
  params := by decide
  lastPos := by decide
  tokens := by decide
  dmaCount := by decide
  ringForm := by decide
  ringWithin := by decide
  frameForm := by decide
  frameWithin := by decide
  frameLen := by decide
  idleEmpty := by decide
  frameOpened := by decide
  truncFull := by decide
  idleIrq := by decide
  pendFlashing := by decide
  openFlashing := by decide
  closedEmpty := by decide
  openEncoded := fun h => absurd h (by decide)
  unconfigured := by decide
  pendBuilt := by decide

/-- A flashing block with a request awaiting, an open frame and a half-received response satisfies
the invariant. -/
def busy : State :=
  { holding .inFrame (hx [0xC0, 0x01]) with
    pendAwait := true, pendOp := 8#8, txOpen := true, txPend := hx [0xC0, 0xDB, 0xDC] }

theorem busy_inv : Inv busy where
  params := by decide
  lastPos := by decide
  tokens := by decide
  dmaCount := by decide
  ringForm := by decide
  ringWithin := by decide
  frameForm := by decide
  frameWithin := by decide
  frameLen := by decide
  idleEmpty := by decide
  frameOpened := by decide
  truncFull := by decide
  idleIrq := by decide
  pendFlashing := by decide
  openFlashing := by decide
  closedEmpty := by decide
  openEncoded := fun _ => ⟨[0xC0#8], by decide⟩
  unconfigured := by decide
  pendBuilt := by decide

/-- A flashing block with a device satisfies the invariant. -/
theorem flashing_inv : Inv flashing where
  params := by decide
  lastPos := by decide
  tokens := by decide
  dmaCount := by decide
  ringForm := by decide
  ringWithin := by decide
  frameForm := by decide
  frameWithin := by decide
  frameLen := by decide
  idleEmpty := by decide
  frameOpened := by decide
  truncFull := by decide
  idleIrq := by decide
  pendFlashing := by decide
  openFlashing := by decide
  closedEmpty := by decide
  openEncoded := fun h => absurd h (by decide)
  unconfigured := by decide
  pendBuilt := by decide

/-- The state of BS9: no transport yet. -/
def fresh : State := { running with mode := .uninitialized, idleIrqEn := false }

/-- A state with one event to come. -/
def next (e : Event) : State := { running with port := [e] }

theorem witness_SetmodeFollowsTransitionTable :
    (0#8 ≠ 1#8 ∧ 0#8 ≠ 2#8) ∧ (3#8 ≠ 1#8 ∧ 3#8 ≠ 2#8) ∧ (255#8 ≠ 1#8 ∧ 255#8 ≠ 2#8) ∧
    fresh.mode = .uninitialized ∧
    ((opened []).txOpen = true ∧ (opened []).mode ≠ .uninitialized) ∧
    ((awaiting 8#8).pendAwait = true ∧ (awaiting 8#8).mode ≠ .uninitialized) ∧
    (running.txOpen = false ∧ running.pendAwait = false ∧ running.mode = .running) ∧
    (flashing.txOpen = false ∧ flashing.pendAwait = false ∧ flashing.mode = .flashing) := by decide

theorem witness_SetdevWritesPresentFlagAlone :
    1 < (2#8 : Byte).toNat ∧ 1 < (255#8 : Byte).toNat := by decide

theorem witness_CancelTimesOutPendingRequest :
    (awaiting 3#8).pendAwait = true ∧ flashing.pendAwait = false := by decide

theorem witness_UnassignedOpCodeRefused :
    (next (.word .consumer .hostOp [0x00#8])).port = .word .consumer .hostOp [0x00#8] :: [] ∧
    (∀ op ∈ [0x00#8, 0x06#8, 0x13#8, 0x24#8, 0x36#8, 0xFF#8],
      op ∉ [0x01#8, 0x02#8, 0x03#8, 0x04#8, 0x05#8, 0x10#8, 0x11#8, 0x12#8, 0x20#8, 0x21#8,
        0x22#8, 0x23#8, 0x30#8, 0x31#8, 0x32#8, 0x33#8, 0x34#8, 0x35#8]) ∧
    (Instr.wellFormed (.send [0x41#8]) = true ∧ Instr.format (.send [0x41#8]) ≠ .romResponse ∧
      hx [0x12, 0x01, 0x00] <+: encode (.send [0x41#8]) ∧
      hx [0x12, 0x01, 0x00] ≠ encode (.send [0x41#8])) ∧
    ([] <+: encode .rxEnd ∧ [] ≠ encode .rxEnd ∧ Instr.format .rxEnd ≠ .romResponse) ∧
    (hx [0x00, 0x05, 0x00] <+: requestPacket 0x05#8 [] 0#32 ∧
      hx [0x00, 0x05, 0x00] ≠ requestPacket 0x05#8 [] 0#32) ∧
    (0x01#8 ≠ 0x00#8 ∧ 0xFF#8 ≠ 0x00#8) ∧
    (∀ op ∈ [0x01#8, 0x05#8, 0x07#8, 0x0B#8],
      op ∉ [0x02#8, 0x03#8, 0x04#8, 0x08#8, 0x09#8, 0x0A#8]) ∧
    ((hx [0x00, 0x08]).head? ≠ some 0x01#8 ∧ (hx []).head? ≠ some 0x01#8) := by decide

/-- R242, by a packet of the response side that is no response. -/
theorem test_step_malformed :
    after (step { awaiting 8#8 with port := [.word .consumer .romResponse (hx [0x00, 0x08])] })
      (fun t => t.diag == 4#4 && !t.pendAwait &&
        t.cplLog == [.item ⟨.protocol, 8#8, 0#8, 0#32⟩]) = true := by decide

theorem witness_RxsigPostsTokenAndRearms :
    2 < (3#8 : Byte).toNat ∧ 2 < (255#8 : Byte).toNat ∧
    ((2#8 : Byte).toNat ≤ 2 ∧ running.nqCount < running.cfg.nqDepth) ∧
    ((0#8 : Byte).toNat ≤ 2 ∧
      ({ running with nqCount := 1 } : State).cfg.nqDepth ≤ 1) := by decide

theorem witness_DrainSpendsTokenAndRoutesByMode :
    State.reset.devPresent = false ∧
    (fresh.devPresent = true ∧ fresh.mode = .uninitialized) ∧
    (running.devPresent = true ∧ running.mode = .running ∧
      ({ running with lastPos := 15 } : State).lastPos < running.cfg.rxCap) ∧
    ((full .inFrame).devPresent = true ∧ (full .inFrame).mode = .flashing ∧
      (full .inFrame).lastPos < (full .inFrame).cfg.rxCap ∧ (full .inFrame).rxfLen ≤ 128) := by
  decide

theorem witness_NewBytesAreTheArrivedRange :
    running.lastPos < running.cfg.rxCap ∧ running.dmaRemaining ≤ running.cfg.rxCap ∧
    ({ running with dmaRemaining := 0, lastPos := 15 } : State).lastPos < running.cfg.rxCap ∧
    2 < ({ running with dmaRemaining := 14, lastPos := 14 } : State).newBytes.length := by decide

theorem witness_SendWritesRawBytes :
    (State.reset.devPresent = false) ∧
    (fresh.devPresent = true ∧ fresh.mode = .uninitialized) ∧
    ((opened []).devPresent = true ∧ (opened []).mode ≠ .uninitialized ∧
      (opened []).txOpen = true) ∧
    (flashing.devPresent = true ∧ flashing.mode ≠ .uninitialized ∧ flashing.txOpen = false ∧
      flashing.accepts [0xC0#8]) ∧
    ((failing 0).txOpen = false ∧ ¬ (failing 0).accepts [0xC0#8]) := by decide

theorem witness_UartWriteAdmitsEveryPrefix :
    hx [0x41, 0x54] ≠ [] ∧ 0 < (hx [0x41, 0x54]).length ∧ 1 < (hx [0x41, 0x54]).length := by decide

theorem witness_SlipBeginOpensFrame :
    running.mode ≠ .flashing ∧ ((opened []).mode = .flashing ∧ (opened []).txOpen = true) ∧
    (flashing.mode = .flashing ∧ flashing.txOpen = false) := by decide

theorem witness_FramerAppendsEscapedByte :
    flashing.txOpen = false ∧ (opened []).txOpen = true ∧ (0xDC#8 ≠ 0xC0#8 ∧ 0xDC#8 ≠ 0xDB#8) ∧
    (0xBF#8 ≠ 0xC0#8 ∧ 0xBF#8 ≠ 0xDB#8) := by decide

theorem witness_SlipEndFlushesFrame :
    flashing.txOpen = false ∧
    ({ opened [] with devPresent := false } : State).devPresent = false ∧
    ((opened []).txOpen = true ∧ (opened []).devPresent = true ∧
      (opened []).accepts ((opened []).txPend ++ [0xC0#8])) ∧
    ¬ ({ opened [] with uartScript := [.fail 1] } : State).accepts
      ((opened []).txPend ++ [0xC0#8]) := by decide

theorem witness_SlipRxbyteIsTheByteTransition :
    running.mode ≠ .flashing ∧ (flashing.mode = .flashing ∧ flashing.rxfLen ≤ 128) ∧
    ((full .inFrame).mode = .flashing ∧ (full .inFrame).rxfLen ≤ 128) := by decide

theorem witness_BytesOutsideFrameDiscarded :
    flashing.rxfState = .idle ∧ flashing.rxfLen ≤ 128 ∧ 0x55#8 ≠ 0xC0#8 := by decide

theorem witness_DeframerStoresAndEscapes :
    (flashing.rxfLen < 128 ∧ flashing.rxfState = .idle) ∧
    ((holding .inFrame [0xC0#8]).rxfLen < 128 ∧ (holding .inFrame [0xC0#8]).rxfState = .inFrame) ∧
    (({ full .escPending with rxfLen := 127 } : State).rxfLen < 128 ∧
      (full .escPending).rxfState = .escPending) ∧
    (0xDC#8 ≠ 0xC0#8 ∧ 0xDC#8 ≠ 0xDB#8) := by decide

theorem witness_FullFrameDropsBytes :
    ((full .inFrame).rxfLen = 128 ∧ (full .inFrame).rxfState = .inFrame) ∧
    ((full .escPending).rxfLen = 128 ∧ (full .escPending).rxfState = .escPending) ∧
    (0x41#8 ≠ 0xC0#8 ∧ 0x41#8 ≠ 0xDB#8) := by decide

theorem witness_DeframerStoreTouchesOneByte :
    flashing.frame.wf ∧ flashing.rxfLen < 128 ∧ Instr.wellFormed .rxEnd = true ∧
    storedByte flashing.rxfState .rxEnd = some 0xC0#8 ∧
    storedByte (holding .inFrame [0xC0#8]).rxfState (.rxOther 0#8) = some 0#8 ∧
    storedByte (full .escPending).rxfState .rxEscEsc = some 0xDB#8 := by decide

theorem witness_ClosingDelimiterHandsOff :
    ((holding .inFrame [0xC0#8]).rxfState = .inFrame ∧ (holding .inFrame [0xC0#8]).rxfLen = 1) ∧
    (2 ≤ (holding .inFrame (hx [0xC0, 0x01])).rxfLen ∧
      (holding .inFrame (hx [0xC0, 0x01])).rxfLen < 128 ∧
      (holding .inFrame (hx [0xC0, 0x01])).rxfTrunc = false) ∧
    (2 ≤ ({ full .inFrame with rxfLen := 127 } : State).rxfLen ∧
      ({ full .inFrame with rxfLen := 127 } : State).rxfLen < 128 ∧
      (full .inFrame).rxfTrunc = false) ∧
    ((full .inFrame).rxfState = .inFrame ∧ (full .inFrame).rxfLen = 128) := by decide

theorem witness_BadEscapeResetsDeframer :
    (full .escPending).rxfState = .escPending ∧ (full .escPending).rxfLen ≤ 128 ∧
    (full .escPending).pendAwait = false ∧
    ({ holding .escPending [0xC0#8] with pendAwait := true } : State).pendAwait = true ∧
    Instr.wellFormed (.rxOther 0x41#8) = true := by decide

theorem witness_EscPendingOnlyRightAfterEsc :
    exec (rxClass 0xDB#8) (holding .inFrame [0xC0#8]) =
      .next { holding .inFrame [0xC0#8] with rxfState := .escPending } ∧
    exec (rxClass 0xDC#8) (holding .escPending [0xC0#8]) =
      .next (holding .inFrame (hx [0xC0, 0xC0])) := ⟨rfl, rfl⟩

theorem witness_AbsentIndexFaults :
    128 < ({ flashing with rxfLen := 129 } : State).rxfLen ∧ flashing.mode = .flashing ∧
    (running.devPresent = true ∧ running.mode ≠ .uninitialized ∧
      running.cfg.rxCap ≤ ({ running with lastPos := 16 } : State).lastPos) := by decide

theorem witness_requests :
    flashing.canBuild ∧ flashing.accepts (slipFrame [0x00#8]) ∧
    flashing.accepts (requestFrame 0x08#8 (syncPayload flashing.cfg) 0#32) ∧
    flashing.accepts (requestFrame 0x0A#8 (readRegPayload flashing.cfg 0x0000C0DB#32) 0#32) ∧
    flashing.accepts (requestFrame 0x02#8 (flashBeginPayload flashing.cfg 1025#32 0#32) 0#32) ∧
    flashing.accepts (requestFrame 0x04#8 (flashEndPayload flashing.cfg) 0#32) := by decide

/-- The flashing block of a peer with little-endian payload words (93 G8). -/
def flashingLe : State := { flashing with cfg := { tiny with wordOrder := .le } }

theorem witness_word_orders :
    laysOutWords flashing.cfg.wordOrder be32 ∧ laysOutWords flashingLe.cfg.wordOrder le32 ∧
    flashing.cfg.wordOrder = .be ∧ flashingLe.cfg.wordOrder = .le ∧ flashingLe.canBuild :=
  ⟨⟨fun _ _ => rfl, fun h => absurd h (by decide)⟩, ⟨fun h => absurd h (by decide), fun _ _ => rfl⟩,
    rfl, rfl, by decide⟩

/-- The example of R224 with the payload word little-endian (R9). -/
theorem test_romReadreg_little_endian :
    after (exec (.romReadreg 0x3FF00050#32) flashingLe) (fun t =>
      t.txLog == (hx [0xC0, 0x00, 0x0A, 0x04, 0x00, 0x00, 0x00, 0x00, 0x00, 0x50, 0x00, 0xF0, 0x3F,
        0xC0]).map .item) = true := by decide

theorem witness_FlashDataRequestGoesOut :
    ([] : List Byte).length < 1 ∧
    ({ tiny with flashBlockSize := 1 } : Params).flashBlockSize < (hx [1, 2]).length ∧
    (1 ≤ (hx [0xC0]).length ∧ (hx [0xC0]).length ≤ flashing.cfg.flashBlockSize ∧
      flashing.canBuild ∧ flashing.accepts (requestFrame 0x03#8
        (flashDataPayload flashing.cfg 0#32 (hx [0xC0])) (fold 0xEF#32 (hx [0xC0])))) := by decide

theorem witness_BuildChecksInOrder :
    buildRequest flashing.cfg .romFend = some (0x04#8, hx [0, 0, 0, 0], 0#32) ∧
    buildRequest flashing.cfg (.romFdata 0#32 [0xC0#8]) =
      some (0x03#8, hx [0, 0, 0, 1, 0, 0, 0, 0, 0xC0], 0x2F#32) ∧
    State.reset.devPresent = false ∧ (running.devPresent = true ∧ running.mode ≠ .flashing) ∧
    ((awaiting 8#8).devPresent = true ∧ (awaiting 8#8).mode = .flashing ∧
      (awaiting 8#8).pendAwait = true) ∧
    ((opened []).devPresent = true ∧ (opened []).mode = .flashing ∧ (opened []).txOpen = true) ∧
    (flashing.canBuild ∧ flashing.accepts (requestFrame 0x04#8 (hx [0, 0, 0, 0]) 0#32)) ∧
    ((failing 13).canBuild ∧
      ¬ (failing 13).accepts (requestFrame 0x04#8 (hx [0, 0, 0, 0]) 0#32)) := by decide

theorem witness_RequestPacketsAreTheBuilds :
    requestOf 0x04#8 0#32 (hx [0, 0, 0, 0]) = some (.flashEnd 0#32 (hx [0, 0, 0, 0])) ∧
    requestOf 0x04#8 1#32 [] = some (.flashEnd 1#32 []) ∧
    ∀ j, buildRequest flashing.cfg j ≠ some (0x04#8, [], 1#32) := by
  refine ⟨rfl, rfl, fun j => ?_⟩
  cases j <;> simp [buildRequest]

theorem witness_ResponseResolvesOrIsDiscarded :
    ((awaiting 8#8).pendAwait = true ∧ flashing.pendAwait = false) ∧
    ((hx [0x01, 0x08]).length < flashing.cfg.statusOffset + 1) ∧
    (flashing.cfg.statusOffset + 1 ≤ (hx [0x01, 0x08, 0x00]).length) ∧
    ((hx [0x01, 0x03, 0x00]).getD 1 0#8 ≠ (awaiting 8#8).pendOp) ∧
    ((hx [0x01, 0x08, 0x05]).getD 1 0#8 = (awaiting 8#8).pendOp ∧
      (hx [0x01, 0x08, 0x05]).getD flashing.cfg.statusOffset 0#8 ≠ 0#8) ∧
    ((awaiting 0x0A#8).pendOp = 0x0A#8 ∧
      (hx [0x01, 0x0A, 0, 0, 1, 2, 3]).length < flashing.cfg.valueOffset + 4) ∧
    (flashing.cfg.valueOffset + 4 ≤ (hx [0x01, 0x0A, 0, 0, 1, 2, 3, 4]).length) ∧
    ((hx [0x01, 0x08, 0x00]).getD flashing.cfg.statusOffset 0#8 = 0#8 ∧
      (awaiting 8#8).pendOp ≠ 0x0A#8) := by decide

theorem witness_RomParseHandsOffItsFrame :
    ([0xC0#8] : List Byte).length < 2 ∧ (hx [0x01, 0xC0]).head? ≠ some 0xC0#8 ∧
    (hx [0xC0, 0x01]).getLast? ≠ some 0xC0#8 ∧
    (hx [0xC0, 0xC0] = 0xC0#8 :: ([] ++ [0xC0#8]) ∧ (hx [0xC0, 0xC0]).length ≤ 128 ∧
      ([] : List Byte).head? ≠ some 0x01#8) ∧
    (hx [0xC0, 0x01, 0x08, 0x00, 0xC0] = 0xC0#8 :: (hx [0x01, 0x08, 0x00] ++ [0xC0#8]) ∧
      hx [0x01, 0x08, 0x00] = 0x01#8 :: hx [0x08, 0x00]) ∧
    running.mode ≠ .flashing ∧ flashing.mode = .flashing ∧ (awaiting 8#8).pendAwait = true ∧
    flashing.pendAwait = false := by decide

theorem witness_RomParse_lengths :
    128 < (List.replicate 129 0xC0#8).length ∧ (List.replicate 128 0xC0#8).length ≤ 128 := by
  rw [List.length_replicate, List.length_replicate]; decide

theorem witness_DmaByteWriteStep :
    (next (.agent (.dmaRx 7#8))).port = .agent (.dmaRx 7#8) :: [] ∧
    (next (.agent (.dmaRx 7#8))).dmaActive = true ∧ (next (.agent (.dmaRx 7#8))).rxbuf.wf ∧
    1 ≤ (next (.agent (.dmaRx 7#8))).dmaRemaining ∧
    (next (.agent (.dmaRx 7#8))).dmaRemaining ≤ (next (.agent (.dmaRx 7#8))).cfg.rxCap ∧
    1 ≤ ({ running with dmaRemaining := 1 } : State).dmaRemaining ∧
    ({ running with dmaRemaining := 0 } : State).dmaRemaining = 0 ∧
    State.reset.dmaActive = false ∧
    (next (.agent .dmaConfigure)).port = .agent .dmaConfigure :: [] := by decide

theorem witness_InterruptDeliveryRunsRxsig :
    (next (.agent (.deliver .ht))).port = .agent (.deliver .ht) :: [] ∧
    ({ next (.agent (.deliver .ht)) with irqHt := true } : State).irqHt = true ∧
    ({ next (.agent (.deliver .tc)) with irqTc := true } : State).irqTc = true ∧
    ({ next (.agent (.deliver .idle)) with irqIdle := true } : State).irqIdle = true ∧
    running.idleIrqEn = true ∧ flashing.idleIrqEn = false ∧
    (running.irqHt = false ∧ running.irqTc = false ∧ running.irqIdle = false) ∧
    (next (.agent .lineIdle)).port = .agent .lineIdle :: [] ∧
    (next (.agent .dropIdle)).port = .agent .dropIdle :: [] := by decide

theorem witness_ResetPutsEveryElement :
    (next (.agent (.reset 17 [] []))).port = .agent (.reset 17 [] []) :: [] := by decide

theorem witness_StepRunsDecodedInstruction :
    (next (.word .interrupt .hostOp (hx [0x10, 0x02, 0x02]))).port =
      .word .interrupt .hostOp (hx [0x10, 0x02, 0x02]) :: [] ∧
    decode .hostOp (hx [0x10, 0x02, 0x02]) = .ok (.rxsig 2#8, [0x02#8]) ∧
    contextAllows .interrupt (.rxsig 2#8) = true ∧
    contextAllows .consumer (.rxsig 2#8) = false ∧
    (Instr.drain ≠ .getmode ∧ contextAllows .consumer .drain = true ∧
      contextAllows .interrupt .drain = false ∧ contextAllows .caller .drain = false) ∧
    running.port = [] := by decide

theorem witness_DecodeOfEncodeIsIdentity :
    Instr.wellFormed (.send (hx [0xC0])) = true ∧ Instr.format (.send (hx [0xC0])) ≠ .romResponse ∧
    Instr.wellFormed (.response (hx [8, 0])) = true ∧
    Instr.format (.response (hx [8, 0])) = .romResponse := by decide

theorem witness_EncodeOfDecodeIsIdentity :
    decode .hostOp (hx [0x12, 0x01, 0x00, 0xC0, 0x02]) = .ok (.send [0xC0#8], [0x02#8]) := by
  decide

theorem witness_InvariantHoldsAtReset :
    tiny.valid ∧ 16 ≤ tiny.rxCap ∧ Memory.wf [(0, 1#8), (15, 2#8)] ∧
    Memory.within tiny.rxCap [(0, 1#8), (15, 2#8)] ∧ Memory.within frameCap [(127, 2#8)] := by
  decide

/-- A step from a state of the invariant, that does something. -/
theorem witness_StepKeepsInvariant :
    Inv ({ busy with port := [.word .consumer .hostOp [0x04#8]] } : State) ∧
    after (step { busy with port := [.word .consumer .hostOp [0x04#8]] })
      (fun t => !t.pendAwait) = true :=
  ⟨busy_inv.congr rfl busy_inv.tokens id, by decide⟩

theorem witness_OnlySetmodeChangesMode :
    exec (.setmode 1#8) fresh = .next { fresh with
      mode := .running, idleIrqEn := true, result := some ⟨.ok, 0⟩ } ∧
    ({ fresh with mode := .running } : State).mode ≠ fresh.mode := ⟨rfl, by decide⟩

theorem witness_LogsAreAppendOnly :
    after (step { running with port := [.agent (.reset 0 [] [])] })
      (fun t => t.txLog == [.resetMark]) = true := by decide

theorem witness_FailingOperationChangesNothing :
    exec .slipEnd flashing = .next { flashing with result := some ⟨.sequencing, 0⟩ } ∧
    exec .romFend running = .next { running with result := some ⟨.sequencing, 0⟩ } ∧
    Instr.format .romFend ≠ .rxByte ∧ Instr.format .romFend ≠ .romResponse ∧
    ResultCode.sequencing ≠ .ok ∧ ResultCode.sequencing ≠ .uartWriteFail :=
  ⟨rfl, rfl, by decide, by decide, by decide, by decide⟩

theorem witness_OneCompletionPerRequest :
    after (exec .cancel (awaiting 3#8)) (fun t =>
      t.cplLog == [.item ⟨.timeout, 3#8, 0#8, 0#32⟩] && !t.pendAwait) = true ∧
    after (exec .getmode (awaiting 3#8)) (fun t => t.cplLog == [] && t.pendAwait) = true := by
  decide

theorem witness_StaleFrameBytesAreNeverRead :
    sameButStale (holding .inFrame [0xC0#8])
      { holding .inFrame [0xC0#8] with frame := [(0, 0xC0#8), (1, 0x77#8)] } :=
  ⟨rfl, by decide, by decide, by decide⟩

theorem witness_SlipRoundTrip :
    flashing.rxfState = .idle ∧ flashing.rxfLen = 0 ∧ flashing.rxfTrunc = false ∧
    flashing.frame.wf ∧ 1 ≤ (hx [0xC0]).length := by decide

theorem witness_ChecksumProperties : (hx [1, 2]).Perm (hx [2, 1]) := by decide

theorem witness_SlipFramePseudoSendsFrame :
    flashing.devPresent = true ∧ flashing.mode = .flashing ∧ flashing.txOpen = false ∧
    flashing.accepts (slipFrame (hx [0xC0, 0xDB])) := by decide

theorem witness_FlashingPseudoOpsSwitchMode :
    (fresh.txOpen = false ∧ fresh.mode = .uninitialized ∧ fresh.pendAwait = false) ∧
    (running.txOpen = false ∧ running.mode = .running ∧ running.pendAwait = false) ∧
    (flashing.txOpen = false ∧ flashing.mode = .flashing ∧ flashing.pendAwait = false) ∧
    (({ fresh with txOpen := true } : State).txOpen = true ∧ fresh.mode = .uninitialized) ∧
    ((opened []).txOpen = true ∧ (opened []).mode ≠ .uninitialized) ∧
    ((awaiting 8#8).pendAwait = true ∧ (awaiting 8#8).txOpen = false) ∧
    (busy.pendAwait = true ∧ busy.txOpen = true) := by decide

theorem witness_RomBuildIsOneSlipFrame :
    flashing.canBuild ∧ flashing.txPend = [] ∧
    buildRequest flashing.cfg .romFend = some (0x04#8, hx [0, 0, 0, 0], 0#32) ∧
    flashing.accepts (requestFrame 0x04#8 (hx [0, 0, 0, 0]) 0#32) ∧
    ¬ (failing 3).accepts (requestFrame 0x04#8 (hx [0, 0, 0, 0]) 0#32) := by decide

theorem witness_drains :
    Inv running ∧ running.drained ∧ running.dmaActive = true ∧ running.devPresent = true ∧
    running.mode = .running ∧ (List.replicate 15 0xC0#8).length < running.cfg.rxCap :=
  ⟨running_inv, by decide, by decide, by decide, by decide, by decide⟩

theorem witness_drains_flashing :
    Inv flashing ∧ flashing.drained ∧ flashing.dmaActive = true ∧ flashing.devPresent = true ∧
    flashing.mode = .flashing ∧ (hx [0xC0] ++ hx [0x01]).length < flashing.cfg.rxCap :=
  ⟨flashing_inv, by decide, by decide, by decide, by decide, by decide⟩

theorem witness_DrainIsIdempotent :
    running.devPresent = true ∧ running.mode ≠ .uninitialized ∧
    running.lastPos < running.cfg.rxCap ∧ running.rxfLen ≤ 128 := by decide

theorem witness_InterruptOrderIsUnobservable :
    (running.idleIrqEn = true ↔ running.mode = .running) ∧
    (flashing.idleIrqEn = true ↔ flashing.mode = .running) := by decide

theorem witness_NoIdleWakeUpInFlashing : Inv flashing ∧ flashing.mode = .flashing :=
  ⟨flashing_inv, rfl⟩

end Sys2Proof.Tests
end

section
/-! What one step does with a word at the head of the port (spec/20_memory.md R63,
spec/60_exceptions.md R320, R323), and which context may issue which instruction (R320, R162). -/

namespace Sys2Proof.Machine

/-! ### Contexts -/

@[simp] theorem contextAllows_rxsig (ctx : Context) (src : Byte) :
    contextAllows ctx (.rxsig src) = decide (ctx = .interrupt) := rfl

@[simp] theorem contextAllows_getmode (ctx : Context) : contextAllows ctx .getmode = true := rfl

/-- R320: all but GETMODE and RXSIG belong to the consumer alone. -/
theorem contextAllows_eq_consumer {i : Instr} (hgetmode : i ≠ .getmode)
    (hrxsig : ∀ src : Byte, i ≠ .rxsig src) (ctx : Context) :
    contextAllows ctx i = decide (ctx = .consumer) := by
  cases i with
  | getmode => exact absurd rfl hgetmode
  | rxsig src => exact absurd rfl (hrxsig src)
  | _ => rfl

/-! ### One step -/

section StepOfPort

variable {s : State} {ctx : Context} {fmt : Format} {bytes rest : List Byte} {tail : List Event}
  {i : Instr}

theorem step_of_port_nil (hport : s.port = []) : step s = .next s := by
  simp only [step, hport]

theorem step_of_port_word (hport : s.port = .word ctx fmt bytes :: tail) :
    step s = stepWord ctx fmt bytes tail s := by
  simp only [step, hport]

theorem stepWord_of_decode (hdecode : decode fmt bytes = .ok (i, rest)) :
    stepWord ctx fmt bytes tail s =
      if contextAllows ctx i = true then exec i { s with port := portAfterWord ctx fmt rest tail }
      else .refused .wrongContext := by
  simp only [stepWord, hdecode]

theorem step_of_allowed (hport : s.port = .word ctx fmt bytes :: tail)
    (hdecode : decode fmt bytes = .ok (i, rest)) (hallowed : contextAllows ctx i = true) :
    step s = exec i { s with port := portAfterWord ctx fmt rest tail } := by
  rw [step_of_port_word hport, stepWord_of_decode hdecode, if_pos hallowed]

theorem step_of_not_allowed (hport : s.port = .word ctx fmt bytes :: tail)
    (hdecode : decode fmt bytes = .ok (i, rest)) (hrefused : contextAllows ctx i = false) :
    step s = .refused .wrongContext := by
  rw [step_of_port_word hport, stepWord_of_decode hdecode, if_neg (by simp [hrefused])]

end StepOfPort

/-- Settles O37, from the two outcomes of a decoded word at the head of the port and the table of
contexts; `portAfterWord` is the statement's own `if`. -/
theorem stepRunsDecodedInstruction : Obligations.StepRunsDecodedInstruction := by
  intro s ctx fmt bytes rest tail i
  refine ⟨fun hport hdecode => ⟨?allowed, ?refused⟩, ?rxsig, ?getmode, ?others, ?waits⟩
  case allowed => exact step_of_allowed hport hdecode
  case refused => exact step_of_not_allowed hport hdecode
  case rxsig => simp
  case getmode => simp
  case others =>
    intro hgetmode hrxsig
    simp [contextAllows_eq_consumer hgetmode hrxsig]
  case waits => exact step_of_port_nil

end Sys2Proof.Machine
end

section
/-! What the decoder answers is well-formed (spec/30_encoding.md R91, R92, R100, R101, R181). -/

namespace Sys2Proof

/-- The instruction a decoder answers, if it answers one, has an encoding. -/
def soundDecoding (d : Decoded) : Prop := ∀ i rest, d = .ok (i, rest) → i.wellFormed = true

theorem soundDecoding_error (e : DecodeError) : soundDecoding (.error e) :=
  fun _ _ h => nomatch h

theorem soundDecoding_ok {i : Instr} (hi : i.wellFormed = true) (rest : List Byte) :
    soundDecoding (.ok (i, rest)) := by
  rintro _ _ ⟨⟩
  exact hi

theorem soundDecoding_ite {c : Prop} [Decidable c] {d d' : Decoded} (hthen : soundDecoding d)
    (helse : soundDecoding d') : soundDecoding (if c then d else d') := by
  split
  · exact hthen
  · exact helse

theorem soundDecoding_withByte {bs : List Byte} {k : Byte → List Byte → Decoded}
    (hk : ∀ b rest, soundDecoding (k b rest)) : soundDecoding (withByte bs k) := by
  intro i t h
  obtain ⟨b, rest, -, hb⟩ := withByte_ok h
  exact hk b rest i t hb

theorem soundDecoding_withWord16 {bs : List Byte} {k : Word16 → List Byte → Decoded}
    (hk : ∀ v rest, soundDecoding (k v rest)) : soundDecoding (withWord16 bs k) := by
  intro i t h
  obtain ⟨v, rest, -, hv⟩ := withWord16_ok h
  exact hk v rest i t hv

theorem soundDecoding_withWord32 {bs : List Byte} {k : Word32 → List Byte → Decoded}
    (hk : ∀ v rest, soundDecoding (k v rest)) : soundDecoding (withWord32 bs k) := by
  intro i t h
  obtain ⟨v, rest, -, hv⟩ := withWord32_ok h
  exact hk v rest i t hv

/-- A data field is as long as the length field before it says. -/
theorem soundDecoding_withData {n : Nat} {bs : List Byte} {k : List Byte → List Byte → Decoded}
    (hk : ∀ data rest, data.length = n → soundDecoding (k data rest)) :
    soundDecoding (withData n bs k) := by
  intro i t h
  obtain ⟨data, rest, -, hlen, hdata⟩ := withData_ok h
  exact hk data rest hlen i t hdata

theorem fits16_of_length_eq {data : List Byte} {n : Word16} (h : data.length = n.toNat) :
    fits16 data = true :=
  decide_eq_true (h ▸ n.isLt)

theorem fits8_of_length_eq {data : List Byte} {n : Byte} (h : data.length = n.toNat) :
    fits8 data = true :=
  decide_eq_true (h ▸ n.isLt)

theorem requestOf_wellFormed {opcode : Byte} {chk : Word32} {payload : List Byte} {i : Instr}
    (hfits : fits16 payload = true) (h : requestOf opcode chk payload = some i) :
    i.wellFormed = true := by
  unfold requestOf at h
  split_ifs at h <;> cases h <;> exact hfits

theorem rxClass_wellFormed (b : Byte) : (rxClass b).wellFormed = true := by
  unfold rxClass
  split_ifs with hend hesc hescEnd hescEsc
  case neg => simp [Instr.wellFormed, isOtherByte, hend, hesc, hescEnd, hescEsc]
  all_goals rfl

theorem txClass_wellFormed (b : Byte) : (txClass b).wellFormed = true := by
  unfold txClass
  split_ifs with hend hesc
  case neg => simp [Instr.wellFormed, isLiteralByte, hend, hesc]
  all_goals rfl

theorem decodeHostOp_sound (bs : List Byte) : soundDecoding (decodeHostOp bs) := by
  cases bs with
  | nil => exact soundDecoding_error _
  | cons op rest =>
    refine soundDecoding_ite ?setmode <| soundDecoding_ite ?getmode <|
      soundDecoding_ite ?setdev <| soundDecoding_ite ?cancel <| soundDecoding_ite ?rddiag <|
      soundDecoding_ite ?rxsig <| soundDecoding_ite ?drain <| soundDecoding_ite ?send <|
      soundDecoding_ite ?slipBegin <| soundDecoding_ite ?slipByte <|
      soundDecoding_ite ?slipEnd <| soundDecoding_ite ?slipRxbyte <|
      soundDecoding_ite ?romSync <| soundDecoding_ite ?romReadreg <|
      soundDecoding_ite ?romFbegin <| soundDecoding_ite ?romFdata <|
      soundDecoding_ite ?romFend <| soundDecoding_ite ?romParse <| soundDecoding_error _
    case setmode | setdev | rxsig | slipByte | slipRxbyte =>
      exact soundDecoding_withByte fun _ _ => soundDecoding_ok rfl _
    case getmode | cancel | rddiag | drain | slipBegin | slipEnd | romSync | romFend =>
      exact soundDecoding_ok rfl _
    case send =>
      exact soundDecoding_withWord16 fun _ _ => soundDecoding_withData fun data _ hlen =>
        soundDecoding_ok (i := .send data) (fits16_of_length_eq hlen) _
    case romReadreg => exact soundDecoding_withWord32 fun _ _ => soundDecoding_ok rfl _
    case romFbegin =>
      exact soundDecoding_withWord32 fun _ _ => soundDecoding_withWord32 fun _ _ =>
        soundDecoding_ok rfl _
    case romFdata =>
      exact soundDecoding_withWord32 fun seq _ => soundDecoding_withWord16 fun _ _ =>
        soundDecoding_withData fun data _ hlen =>
          soundDecoding_ok (i := .romFdata seq data) (fits16_of_length_eq hlen) _
    case romParse =>
      exact soundDecoding_withByte fun _ _ => soundDecoding_withData fun frame _ hlen =>
        soundDecoding_ok (i := .romParse frame) (fits8_of_length_eq hlen) _

theorem decodeRequest_sound (bs : List Byte) : soundDecoding (decodeRequest bs) := by
  cases bs with
  | nil => exact soundDecoding_error _
  | cons dir rest =>
    refine soundDecoding_ite (soundDecoding_withByte fun opcode _ =>
      soundDecoding_withWord16 fun n _ => soundDecoding_withWord32 fun chk _ =>
      soundDecoding_withData fun payload t hlen => ?_) (soundDecoding_error _)
    cases hrequest : requestOf opcode chk payload with
    | none => exact soundDecoding_error _
    | some i =>
      exact soundDecoding_ok (requestOf_wellFormed (fits16_of_length_eq hlen) hrequest) t

theorem decodeResponse_sound (bs : List Byte) : soundDecoding (decodeResponse bs) := by
  cases bs with
  | nil => exact soundDecoding_error _
  | cons dir rest => exact soundDecoding_ite (soundDecoding_ok rfl _) (soundDecoding_error _)

/-- The decoder answers only what an encoding can carry (R91, R92, R101, R181). -/
theorem decode_wellFormed {fmt : Format} {bs rest : List Byte} {i : Instr}
    (h : decode fmt bs = .ok (i, rest)) : i.wellFormed = true := by
  suffices hsound : soundDecoding (decode fmt bs) from hsound i rest h
  cases fmt with
  | hostOp => exact decodeHostOp_sound bs
  | romRequest => exact decodeRequest_sound bs
  | romResponse => exact decodeResponse_sound bs
  | rxByte =>
    cases bs with
    | nil => exact soundDecoding_error _
    | cons b rest => exact soundDecoding_ok (rxClass_wellFormed b) _
  | txByte =>
    cases bs with
    | nil => exact soundDecoding_error _
    | cons b rest => exact soundDecoding_ok (txClass_wellFormed b) _

end Sys2Proof
end

section
/-! Everything an instruction can answer, said once: the invariant, the frame of MODE, the growth of
the logs and the absence of faults are read off this list. -/

namespace Sys2Proof.Machine

/-- The outcomes of `exec i s`, each with the checks that lead to it and that a property of the
outcome needs. -/
inductive ExecOutcome (s : State) (i : Instr) : Host.Outcome State Fault Refusal → Prop
  /-- Nothing but the result: GETMODE, and every refused operation (R303). -/
  | returned (code : ResultCode) (value : Nat) : ExecOutcome s i (.next (s.ret code value))
  | modeEntered (m : Byte) (target : Mode) (instr : i = .setmode m)
      (operand : modeOperand m = some target) (legal : legalTransition s.mode target = true)
      (closed : s.txOpen = false) (idle : s.pendAwait = false) :
      ExecOutcome s i (.next ((s.enterMode target).ret .ok 0))
  | deviceSet (present : Bool) :
      ExecOutcome s i (.next ({ s with devPresent := present }.ret .ok 0))
  | cancelled :
      ExecOutcome s i (.next ((s.resolve .timeout s.pendOp 0x00#8 0#32).ret .ok 0))
  | diagCleared (value : Nat) : ExecOutcome s i (.next ({ s with diag := 0#4 }.ret .ok value))
  | tokenPosted : ExecOutcome s i (.next (s.postToken.ret .ok 0))
  | tokenSpent (code : ResultCode) : ExecOutcome s i (.next (s.takeToken.raise code))
  | drained (configured : s.mode ≠ .uninitialized) :
      ExecOutcome s i (.next s.takeToken.drainNew)
  | sent (wire : List Byte) : ExecOutcome s i (.next (s.sendWire wire))
  | frameBegun (mode : s.mode = .flashing) :
      ExecOutcome s i (.next ({ s with txOpen := true, txPend := [slipEnd] }.ret .ok 0))
  | frameExtended (wire : List Byte) (isOpen : s.txOpen = true)
      (escaped : i.wellFormed = true → ∃ p : List Byte, wire = escAll p) :
      ExecOutcome s i (.next ({ s with txPend := s.txPend ++ wire }.ret .ok 0))
  | frameDropped (code : ResultCode) : ExecOutcome s i (.next (s.closeFrame.raise code))
  | frameSent (wire : List Byte) : ExecOutcome s i (.next (s.closeFrame.sendWire wire))
  | received (b : Byte) : ExecOutcome s i (.next (s.rxByte b))
  | receivedOk (b : Byte) : ExecOutcome s i (.next ((s.rxByte b).ret .ok 0))
  | built (opcode : Byte) (payload : List Byte) (chk : Word32) (listed : opcode ∈ builtOpcodes) :
      ExecOutcome s i (.next (s.romBuild opcode payload chk))
  | parsed (p : List Byte) : ExecOutcome s i (.next (s.romParse p))
  | parsedOk (p : List Byte) : ExecOutcome s i (.next ((s.romParse p).ret .ok 0))
  | noBuilder : ExecOutcome s i (.refused .noBuilder)
  | ringFault (absent : s.cfg.rxCap ≤ s.lastPos) :
      ExecOutcome s i (.fault (.rxbufIndex s.lastPos))
  | frameFault (absent : frameCap < s.rxfLen) :
      ExecOutcome s i (.fault (.frameIndex s.rxfLen))

namespace ExecOutcome

variable {s : State} {i : Instr} {o o' : Host.Outcome State Fault Refusal}

theorem ite {c : Prop} [Decidable c] (hthen : c → ExecOutcome s i o)
    (helse : ¬c → ExecOutcome s i o') : ExecOutcome s i (if c then o else o') := by
  split
  · next h => exact hthen h
  · next h => exact helse h

theorem withRing (h : ExecOutcome s i o) : ExecOutcome s i (s.withRing o) := by
  rcases s.withRing_cases o with ⟨-, e⟩ | ⟨habsent, e⟩ <;> rw [e]
  · exact h
  · exact ringFault habsent

theorem withFrame (h : ExecOutcome s i o) : ExecOutcome s i (s.withFrame o) := by
  rcases s.withFrame_cases o with ⟨-, e⟩ | ⟨habsent, e⟩ <;> rw [e]
  · exact h
  · exact frameFault habsent

theorem setmode (m : Byte) : ExecOutcome s (.setmode m) (execSetmode m s) := by
  unfold execSetmode
  split
  · exact returned _ _
  · next target hm =>
    refine ite (fun _ => returned _ _) fun hlegal => ite (fun _ => returned _ _) fun hbusy => ?_
    simp only [not_or, Bool.not_eq_true] at hbusy
    exact modeEntered m target rfl hm (by simpa using hlegal) hbusy.1 hbusy.2

theorem setdev (p : Byte) : ExecOutcome s i (execSetdev p s) := by
  unfold execSetdev
  split
  · exact returned _ _
  · exact deviceSet _

theorem rxsig (src : Byte) : ExecOutcome s i (execRxsig src s) := by
  unfold execRxsig
  split
  · exact returned _ _
  · exact tokenPosted

theorem drain : ExecOutcome s i (execDrain s) := by
  rcases execDrain_cases s with ⟨-, e⟩ | ⟨-, -, e⟩ | ⟨-, hm, e⟩ | ⟨-, hm, e⟩ <;> rw [e]
  · exact tokenSpent _
  · exact tokenSpent _
  · exact withRing (drained (by simp [hm]))
  · exact withRing (withFrame (drained (by simp [hm])))

/-- R183: encoded bytes join the open frame, or no frame is open. -/
theorem txAppend {wire : List Byte}
    (escaped : i.wellFormed = true → ∃ p : List Byte, wire = escAll p) :
    ExecOutcome s i (.next (s.txAppend wire)) := by
  unfold State.txAppend
  split
  · exact returned _ _
  · next hopen => exact frameExtended wire (by simpa using hopen) escaped

theorem sendRequest (legal : Bool) {opcode : Byte} (payload : List Byte) (chk : Word32)
    (listed : opcode ∈ builtOpcodes) :
    ExecOutcome s i (.next (s.sendRequest legal opcode payload chk)) := by
  unfold State.sendRequest
  split
  · exact returned _ _
  · exact built opcode payload chk listed

end ExecOutcome

/-- A byte that R181 does not escape is its own escape. -/
theorem escAll_literal {b : Byte} (h : isLiteralByte b = true) : escAll [b] = [b] := by
  rcases esc_cases b with ⟨rfl, -⟩ | ⟨rfl, -⟩ | ⟨-, -, e⟩
  · exact absurd h (by decide)
  · exact absurd h (by decide)
  · rw [escAll_cons, e, escAll_nil, List.append_nil]

open ExecOutcome in
/-- Every outcome of every instruction is one of the list. -/
theorem exec_outcome (i : Instr) (s : State) : ExecOutcome s i (exec i s) := by
  cases i with
  | setmode m => exact setmode m
  | getmode => exact returned _ _
  | setdev p => exact setdev p
  | cancel => exact ite (fun _ => returned _ _) fun _ => cancelled
  | rddiag => exact diagCleared _
  | rxsig src => exact rxsig src
  | drain => exact drain
  | send data =>
    exact ite (fun _ => returned _ _) fun _ => ite (fun _ => returned _ _) fun _ =>
      ite (fun _ => returned _ _) fun _ => sent data
  | slipBegin =>
    exact ite (fun _ => returned _ _) fun hmode => ite (fun _ => returned _ _) fun _ =>
      frameBegun (not_not.mp hmode)
  | slipByte b => exact txAppend fun _ => ⟨[b], by simp⟩
  | slipEnd =>
    exact ite (fun _ => returned _ _) fun _ => ite (fun _ => frameDropped _) fun _ => frameSent _
  | slipRxbyte b => exact ite (fun _ => returned _ _) fun _ => withFrame (receivedOk b)
  | romSync => exact built _ _ _ (by decide)
  | romReadreg addr => exact built _ _ _ (by decide)
  | romFbegin size off => exact built _ _ _ (by decide)
  | romFdata seq data => exact ite (fun _ => returned _ _) fun _ => built _ _ _ (by decide)
  | romFend => exact built _ _ _ (by decide)
  | romParse frame =>
    exact ite (fun _ => returned _ _) fun _ => ite (fun _ => returned _ _) fun _ => parsedOk _
  | flashBegin chk payload => exact sendRequest _ _ _ (by decide)
  | flashData chk payload => exact sendRequest _ _ _ (by decide)
  | flashEnd chk payload => exact sendRequest _ _ _ (by decide)
  | sync chk payload => exact sendRequest _ _ _ (by decide)
  | writeReg chk payload => exact noBuilder
  | readReg chk payload => exact sendRequest _ _ _ (by decide)
  | response rest => exact parsed _
  | rxEnd => exact withFrame (received _)
  | rxEsc => exact withFrame (received _)
  | rxEscEnd => exact withFrame (received _)
  | rxEscEsc => exact withFrame (received _)
  | rxOther b => exact withFrame (received b)
  | txEscEnd => exact txAppend fun _ => ⟨[slipEnd], rfl⟩
  | txEscEsc => exact txAppend fun _ => ⟨[slipEsc], rfl⟩
  | txLiteral b => exact txAppend fun hliteral => ⟨[b], (escAll_literal hliteral).symm⟩

/-- Everything one step can do: the consumer waits (R323), an agent steps (R7), an instruction that
has an encoding runs, a packet that is no response is parsed (R96), or the word is refused. -/
theorem step_cases (s : State) :
    (s.port = [] ∧ step s = .next s) ∨
    (∃ a tail, s.port = .agent a :: tail ∧ step s = .next ({ s with port := tail }.agentStep a)) ∨
    (∃ i port, i.wellFormed = true ∧ step s = exec i { s with port := port }) ∨
    (∃ p port, step s = .next ({ s with port := port }.romParse p)) ∨
    (∃ r, step s = .refused r) := by
  match hport : s.port with
  | [] => exact .inl ⟨rfl, step_of_port_nil hport⟩
  | .agent a :: tail => exact .inr (.inl ⟨a, tail, rfl, by simp only [step, hport]⟩)
  | .word ctx fmt bytes :: tail =>
    refine .inr (.inr ?_)
    rw [step_of_port_word hport]
    match hdecode : decode fmt bytes with
    | .ok (i, rest) =>
      rw [stepWord_of_decode hdecode]
      split
      · exact .inl ⟨i, _, decode_wellFormed hdecode, rfl⟩
      · exact .inr (.inr ⟨_, rfl⟩)
    | .error e =>
      refine .inr ?_
      simp only [stepWord, hdecode]
      cases e with
      | notResponse packet =>
        unfold rejectWord
        dsimp only
        split
        · exact .inl ⟨packet, tail, rfl⟩
        · exact .inr ⟨_, rfl⟩
      | _ => exact .inr ⟨_, rfl⟩

end Sys2Proof.Machine
end

section
/-! The invariant of R37 and of the register ranges: it holds at reset, and every step of every agent
keeps it. -/

namespace Sys2Proof.Machine

/-! ### Modes -/

/-- R23: IDLE_IRQ_EN is armed in Running alone. -/
theorem armsIdleIrq_iff (m : Mode) : m.armsIdleIrq = true ↔ m = .running := by
  cases m <;> simp [Mode.armsIdleIrq]

/-- LEGAL (R161): Running from anywhere, Flashing from a configured mode. -/
theorem legalTransition_iff (m target : Mode) :
    legalTransition m target = true ↔
      target = .running ∨ (target = .flashing ∧ m ≠ .uninitialized) := by
  cases m <;> cases target <;> simp [legalTransition]

/-! ### Reset -/

/-- R340, R341: the invariant at reset, for any values of what reset leaves unspecified. -/
theorem Inv.resetWith {cfg : Params} {rem : Nat} {rxbuf frame : Memory} (hcfg : cfg.valid)
    (hrem : rem ≤ cfg.rxCap) (hring : rxbuf.wf) (hringIn : rxbuf.within cfg.rxCap)
    (hframe : frame.wf) (hframeIn : frame.within frameCap) :
    Inv (State.resetWith cfg rem rxbuf frame) where
  params := hcfg
  lastPos := Nat.lt_of_lt_of_le Nat.two_pos hcfg.1
  tokens := Nat.zero_le _
  dmaCount := hrem
  ringForm := hring
  ringWithin := hringIn
  frameForm := hframe
  frameWithin := hframeIn
  frameLen := Nat.zero_le _
  idleEmpty := fun _ => ⟨rfl, rfl⟩
  frameOpened := fun h => absurd rfl h
  truncFull := nofun
  idleIrq := ⟨nofun, nofun⟩
  pendFlashing := nofun
  openFlashing := nofun
  closedEmpty := fun _ => rfl
  openEncoded := nofun
  unconfigured := fun _ => rfl
  pendBuilt := nofun

/-- Settles O41: `State.reset` is the reset state of the default parameters with empty memories. -/
theorem invariantHoldsAtReset : Obligations.InvariantHoldsAtReset :=
  ⟨Inv.resetWith (by decide) (Nat.zero_le _) (by decide) (by decide) (by decide) (by decide),
    fun _ _ _ _ => Inv.resetWith⟩

namespace Inv

variable {s : State}

theorem rxCap_pos (h : Inv s) : 0 < s.cfg.rxCap := Nat.zero_lt_of_lt h.lastPos

/-! ### Operations -/

theorem deviceSet (h : Inv s) (present : Bool) : Inv { s with devPresent := present } :=
  h.congr rfl h.tokens id

theorem diagCleared (h : Inv s) : Inv { s with diag := 0#4 } := h.congr rfl h.tokens id

theorem setPort (h : Inv s) (port : List Event) : Inv { s with port := port } :=
  h.congr rfl h.tokens id

/-- IDLE_IRQ_EN and NQ_COUNT may change together, within R37 item 4 and R26. -/
theorem armed (h : Inv s) {n : Nat} {en : Bool} (hn : n ≤ s.cfg.nqDepth)
    (hen : en = true ↔ s.mode = .running) : Inv { s with nqCount := n, idleIrqEn := en } :=
  { h with tokens := hn, idleIrq := hen }

theorem postToken (h : Inv s) : Inv s.postToken := by
  refine h.armed ?_ (armsIdleIrq_iff s.mode)
  have := h.tokens
  split <;> omega

theorem closeFrame (h : Inv s) : Inv s.closeFrame :=
  { h with openFlashing := nofun, closedEmpty := fun _ => rfl, openEncoded := nofun }

theorem frameBegun (h : Inv s) (hm : s.mode = .flashing) :
    Inv { s with txOpen := true, txPend := [slipEnd] } :=
  { h with openFlashing := fun _ => hm, closedEmpty := nofun, openEncoded := fun _ => ⟨[], rfl⟩ }

/-- R183: escaped bytes after an opening delimiter and escaped bytes. -/
theorem frameExtended (h : Inv s) (ho : s.txOpen = true) (p : List Byte) :
    Inv { s with txPend := s.txPend ++ escAll p } :=
  { h with
    closedEmpty := fun hc => absurd (ho.symm.trans hc) Bool.noConfusion
    openEncoded := fun _ => by
      obtain ⟨q, hq⟩ := h.openEncoded ho
      exact ⟨q ++ p, by simp [hq, escAll_append]⟩ }

theorem moved (h : Inv s) {pos : Nat} (hpos : pos < s.cfg.rxCap)
    (hm : s.mode = .uninitialized → pos = 0) : Inv { s with lastPos := pos } :=
  { h with lastPos := hpos, unconfigured := hm }

theorem route (h : Inv s) (seg : List Byte) : Inv (s.route seg) := by
  unfold State.route
  split
  · exact h.congr rfl h.tokens id
  · exact h.rxBytes seg
  · exact h

theorem drainNew (h : Inv s) (hm : s.mode ≠ .uninitialized) : Inv s.drainNew :=
  ((h.moved (s.drainPos_lt h.rxCap_pos) fun hu => absurd hu hm).route _).ret _ _

/-- A configured mode is entered with no frame open and no request awaiting. -/
theorem setMode (h : Inv s) {m : Mode} (hm : m ≠ .uninitialized) (closed : s.txOpen = false)
    (idle : s.pendAwait = false) : Inv { s with mode := m, idleIrqEn := m.armsIdleIrq } :=
  { h with
    idleIrq := armsIdleIrq_iff m
    pendFlashing := fun hp => absurd (idle.symm.trans hp) Bool.noConfusion
    openFlashing := fun ho => absurd (closed.symm.trans ho) Bool.noConfusion
    unconfigured := fun hu => absurd hu hm }

/-- The invariant across a legal SETMODE (R160, R161). -/
theorem enterMode (h : Inv s) {m : Mode} (hm : m ≠ .uninitialized) (closed : s.txOpen = false)
    (idle : s.pendAwait = false) : Inv (s.enterMode m) := by
  have hset := h.setMode hm closed idle
  unfold State.enterMode
  split
  · exact hset.moved h.rxCap_pos fun _ => rfl
  · exact hset.deframerReset
  · exact hset

/-! ### Agents -/

theorem dmaStart (h : Inv s) : Inv s.dmaStart := { h with dmaCount := Nat.le_refl _ }

theorem dmaReceive (h : Inv s) (b : Byte) : Inv (s.dmaReceive b) := by
  cases hactive : s.dmaActive with
  | false => rwa [State.dmaReceive, if_pos hactive]
  | true =>
    have hcount := (s.dmaReceive_pos b hactive h.dmaCount h.rxCap_pos).2
    rw [State.dmaReceive, if_neg (by simp [hactive])] at hcount ⊢
    exact { h with
      dmaCount := hcount
      ringForm := Memory.write_wf h.ringForm _ _
      ringWithin := Memory.write_within h.ringWithin (Nat.mod_lt _ h.rxCap_pos) _ }

theorem deliver (h : Inv s) (src : IrqSource) : Inv (s.deliver src) := by
  rcases s.deliver_cases src with ⟨-, e⟩ | ⟨-, e⟩ <;> rw [e]
  · exact h
  · have hclear : Inv (s.clearIrq src) := by
      rw [s.clearIrq_frame]
      exact h.congr rfl h.tokens id
    exact hclear.postToken.ret _ _

theorem hardReset (h : Inv s) (rem : Nat) (ring frame : List Host.Cell) :
    Inv (s.hardReset rem ring frame) := by
  obtain ⟨hring, hringIn⟩ := Memory.overlay_wf s.cfg.rxCap ring h.ringForm h.ringWithin
  obtain ⟨hframe, hframeIn⟩ := Memory.overlay_wf frameCap frame h.frameForm h.frameWithin
  have hreset := Inv.resetWith h.params (Nat.min_le_right rem _) hring hringIn hframe hframeIn
  exact hreset.congr rfl hreset.tokens id

theorem agentStep (h : Inv s) (a : AgentStep) : Inv (s.agentStep a) := by
  cases a with
  | dmaConfigure => exact h.dmaStart
  | dmaRx b => exact h.dmaReceive b
  | lineIdle => exact h.congr rfl h.tokens id
  | dropIdle =>
    unfold State.agentStep
    dsimp only
    split
    · exact h.congr rfl h.tokens id
    · exact h
  | deliver src => exact h.deliver src
  | reset rem ring frame => exact h.hardReset rem ring frame

/-! ### Instructions -/

/-- The invariant across an instruction that has an encoding. -/
theorem exec {t : State} {i : Instr} (h : Inv s) (hi : i.wellFormed = true)
    (ht : exec i s = .next t) : Inv t := by
  have houtcome := exec_outcome i s
  rw [ht] at houtcome
  cases houtcome with
  | returned code value => exact h.ret _ _
  | modeEntered m target instr operand legal closed idle =>
    refine (h.enterMode ?_ closed idle).ret _ _
    rcases (legalTransition_iff _ _).mp legal with rfl | ⟨rfl, -⟩ <;> decide
  | deviceSet present => exact (h.deviceSet _).ret _ _
  | cancelled => exact (h.resolve _ _ _ _).ret _ _
  | diagCleared value => exact h.diagCleared.ret _ _
  | tokenPosted => exact h.postToken.ret _ _
  | tokenSpent code => exact h.takeToken.ret _ _
  | drained configured => exact h.takeToken.drainNew configured
  | sent wire => exact h.sendWire wire
  | frameBegun mode => exact (h.frameBegun mode).ret _ _
  | frameExtended wire isOpen escaped =>
    obtain ⟨p, rfl⟩ := escaped hi
    exact (h.frameExtended isOpen p).ret _ _
  | frameDropped code => exact h.closeFrame.ret _ _
  | frameSent wire => exact h.closeFrame.sendWire wire
  | received b => exact h.rxByte b
  | receivedOk b => exact (h.rxByte b).ret _ _
  | built opcode payload chk listed => exact h.romBuild opcode payload chk listed
  | parsed p => exact h.romParse p
  | parsedOk p => exact (h.romParse p).ret _ _

end Inv

/-- Settles O42, by what one step can do: an instruction that the decoder answered has an encoding,
which is what keeps the bytes of an open frame escaped. -/
theorem stepKeepsInvariant : Obligations.StepKeepsInvariant := by
  intro s t h ht
  rcases step_cases s with ⟨-, e⟩ | ⟨a, tail, -, e⟩ | ⟨i, port, hi, e⟩ | ⟨p, port, e⟩ | ⟨r, e⟩ <;>
    rw [e] at ht
  · cases ht
    exact h
  · cases ht
    exact (h.setPort tail).agentStep a
  · exact (h.setPort port).exec hi ht
  · cases ht
    exact (h.setPort port).romParse p
  · cases ht

end Sys2Proof.Machine
end

section
/-! When an instruction or a step faults (spec/20_memory.md R60; log 20). -/

namespace Sys2Proof.Machine

/-- An instruction faults only where an index it uses does not exist (R25, R29, R60). -/
theorem exec_faultFree {s : State} (hring : s.lastPos < s.cfg.rxCap) (hframe : s.rxfLen ≤ frameCap)
    (i : Instr) : faultFree (exec i s) := by
  have houtcome := exec_outcome i s
  generalize exec i s = o at houtcome ⊢
  cases houtcome with
  | ringFault absent => exact absurd hring (Nat.not_lt.mpr absent)
  | frameFault absent => exact absurd hframe (Nat.not_le.mpr absent)
  | _ => trivial

/-- Settles O43: only an instruction can fault, and LAST_POS and RXF_LEN are in their ranges. -/
theorem stepNeverFaultsUnderInvariant : Obligations.StepNeverFaultsUnderInvariant := by
  intro s h
  rcases step_cases s with ⟨-, e⟩ | ⟨a, tail, -, e⟩ | ⟨i, port, -, e⟩ | ⟨p, port, e⟩ | ⟨r, e⟩ <;>
    rw [e]
  · trivial
  · trivial
  · exact exec_faultFree (h.setPort port).lastPos (h.setPort port).frameLen i
  · trivial
  · trivial

/-- Settles O23, by the one form every received-byte row has, and DRAIN's checks in their order. -/
theorem absentIndexFaults : Obligations.AbsentIndexFaults := by
  intro s b
  refine ⟨fun hlen => ?_, fun hdev hmode hpos => ?_⟩
  · have hfault : ∀ o, s.withFrame o = .fault (.frameIndex s.rxfLen) :=
      fun o => if_neg (Nat.not_le.mpr hlen)
    refine ⟨?_, fun hm => ?_⟩
    · rw [exec_rxClass, hfault]
    · rw [exec_slipRxbyte_eq, execSlipRxbyte, if_neg (not_not.mpr hm), hfault]
  · have hfault : ∀ o, s.withRing o = .fault (.rxbufIndex s.lastPos) :=
      fun o => if_neg (Nat.not_lt.mpr hpos)
    rw [exec_drain_eq]
    rcases execDrain_cases s with ⟨hd, -⟩ | ⟨-, hm, -⟩ | ⟨-, -, e⟩ | ⟨-, -, e⟩
    · exact absurd (hdev.symm.trans hd) Bool.noConfusion
    · exact absurd hm hmode
    · rw [e, hfault]
    · rw [e, hfault]

end Sys2Proof.Machine
end

section
/-! What every step keeps: MODE, but for SETMODE (spec/41_mode_control.md R160, R161), and the
parameters and the recorded past of the output logs (spec/10_state.md R35). -/

namespace Sys2Proof.Machine

/-! ### What the shared operations leave alone -/

section Frames

variable (s : State)

/-- A build touches TXLOG, the UART draws, the result and the pending request, and nothing else. -/
theorem State.romBuild_frame (opcode : Byte) (payload : List Byte) (chk : Word32) :
    ∃ log script draws r await op, s.txLog <+: log ∧
      s.romBuild opcode payload chk = { s with
        txLog := log, uartScript := script, uartDraws := draws, result := r,
        pendAwait := await, pendOp := op } := by
  have hwrite := s.sendWire_txLog (requestFrame opcode payload chk)
  have hframe := s.sendWire_frame (requestFrame opcode payload chk)
  rcases s.romBuild_cases opcode payload chk with ⟨-, e⟩ | ⟨-, -, e⟩ | ⟨-, -, -, e⟩ |
    ⟨-, ha, e⟩ | ⟨-, -, e⟩ <;> rw [e]
  · exact ⟨_, _, _, _, _, _, List.prefix_rfl, rfl⟩
  · exact ⟨_, _, _, _, _, _, List.prefix_rfl, rfl⟩
  · exact ⟨_, _, _, _, _, _, List.prefix_rfl, rfl⟩
  · rw [s.sendWire_accepted ha] at hwrite hframe
    rw [hframe]
    exact ⟨_, _, _, _, _, _, hwrite, rfl⟩
  · exact ⟨_, _, _, _, _, _, hwrite, hframe⟩

/-- A drain's delivery appends to ATLOG, or is the deframer's (R133). -/
theorem State.route_cases (seg : List Byte) :
    s.route seg = s.feedAt seg ∨ deframed s (s.route seg) := by
  unfold State.route
  split
  · exact .inl rfl
  · exact .inr (s.rxBytes_deframed seg)
  · exact .inr (deframed_refl s)

/-- SETMODE writes MODE, IDLE_IRQ_EN, LAST_POS and the deframer's registers, and nothing else. -/
theorem State.enterMode_frame (m : Mode) :
    s.enterMode m = { s with
      mode := m, idleIrqEn := m.armsIdleIrq, lastPos := (s.enterMode m).lastPos,
      rxfState := (s.enterMode m).rxfState, rxfLen := (s.enterMode m).rxfLen,
      rxfTrunc := (s.enterMode m).rxfTrunc } := by
  unfold State.enterMode
  split <;> rfl

theorem State.sendWire_mode (wire : List Byte) : (s.sendWire wire).mode = s.mode := by
  rw [s.sendWire_frame wire]

theorem State.romBuild_mode (opcode : Byte) (payload : List Byte) (chk : Word32) :
    (s.romBuild opcode payload chk).mode = s.mode := by
  obtain ⟨log, script, draws, r, await, op, -, e⟩ := s.romBuild_frame opcode payload chk
  rw [e]

theorem deframed_mode {s t : State} (h : deframed s t) : t.mode = s.mode := by
  rw [deframed_frame h]

theorem State.drainNew_mode : s.drainNew.mode = s.mode := by
  rw [State.drainNew, State.ret_mode]
  rcases ({ s with lastPos := s.drainPos } : State).route_cases s.newBytes with e | h
  · rw [e]
    rfl
  · rw [deframed_mode h]

end Frames

/-! ### MODE -/

/-- The byte that names a mode (R101). -/
theorem modeOperand_iff (m : Byte) (target : Mode) :
    modeOperand m = some target ↔
      (m = 1#8 ∧ target = .running) ∨ (m = 2#8 ∧ target = .flashing) := by
  unfold modeOperand
  split_ifs with h1 h2
  · simp [h1, eq_comm]
  · simp [h2, eq_comm]
  · simp [h1, h2]

/-- MODE across an instruction: kept, or SETMODE made a legal transition (R160). -/
theorem exec_mode {s t : State} {i : Instr} (h : exec i s = .next t) :
    t.mode = s.mode ∨
    ∃ m, i = .setmode m ∧ modeOperand m = some t.mode ∧ legalTransition s.mode t.mode = true := by
  have houtcome := exec_outcome i s
  rw [h] at houtcome
  cases houtcome with
  | modeEntered m target instr operand legal closed idle =>
    have hmode : ((s.enterMode target).ret .ok 0).mode = target :=
      congrArg State.mode (s.enterMode_frame target)
    exact .inr ⟨m, instr, by rwa [hmode], by rwa [hmode]⟩
  | drained configured => exact .inl s.takeToken.drainNew_mode
  | sent wire => exact .inl (s.sendWire_mode wire)
  | frameSent wire => exact .inl (s.closeFrame.sendWire_mode wire)
  | received b => exact .inl (deframed_mode (s.rxByte_deframed b) :)
  | receivedOk b => exact .inl (deframed_mode (s.rxByte_deframed b) :)
  | built opcode payload chk listed => exact .inl (s.romBuild_mode opcode payload chk)
  | parsed p => exact .inl (deframed_mode (s.romParse_deframed p) :)
  | parsedOk p => exact .inl (deframed_mode (s.romParse_deframed p) :)
  | _ => exact .inl rfl

/-- Settles O44: a SETMODE that changes MODE names the new mode and the transition is in LEGAL, which
leads to Flashing from Running alone once Flashing itself is no change. -/
theorem onlySetmodeChangesMode : Obligations.OnlySetmodeChangesMode := by
  intro s t i h hne
  obtain hsame | ⟨m, rfl, hoperand, hlegal⟩ := exec_mode h
  · exact absurd hsame hne
  obtain ⟨rfl, hrun⟩ | ⟨rfl, hflash⟩ := (modeOperand_iff m t.mode).mp hoperand
  · rw [hrun]
    exact ⟨by decide, .inl ⟨rfl, rfl⟩⟩
  · rw [hflash] at hne hlegal ⊢
    refine ⟨by decide, .inr ⟨rfl, rfl, ?_⟩⟩
    cases hm : s.mode with
    | uninitialized => simp [hm, legalTransition] at hlegal
    | running => rfl
    | flashing => exact absurd hm.symm hne

/-! ### The parameters and the output logs -/

/-- The parameters are the same, and each log continues. -/
structure LogsContinue (s t : State) : Prop where
  cfg : t.cfg = s.cfg
  txLog : s.txLog <+: t.txLog
  atLog : s.atLog <+: t.atLog
  cplLog : s.cplLog <+: t.cplLog

namespace LogsContinue

variable {s t u : State}

theorem of_same (hcfg : t.cfg = s.cfg) (htx : t.txLog = s.txLog) (hat : t.atLog = s.atLog)
    (hcpl : t.cplLog = s.cplLog) : LogsContinue s t where
  cfg := hcfg
  txLog := htx ▸ List.prefix_rfl
  atLog := hat ▸ List.prefix_rfl
  cplLog := hcpl ▸ List.prefix_rfl

theorem trans (h : LogsContinue s t) (h' : LogsContinue t u) : LogsContinue s u where
  cfg := h'.cfg.trans h.cfg
  txLog := h.txLog.trans h'.txLog
  atLog := h.atLog.trans h'.atLog
  cplLog := h.cplLog.trans h'.cplLog

theorem ret (h : LogsContinue s t) (code : ResultCode) (value : Nat) :
    LogsContinue s (t.ret code value) :=
  h.trans (of_same rfl rfl rfl rfl)

/-- The deframer and the parser record completions alone (R244). -/
theorem of_deframed (h : deframed s t) : LogsContinue s t where
  cfg := by rw [deframed_frame h]
  txLog := by rw [deframed_frame h]
  atLog := by rw [deframed_frame h]
  cplLog := by
    obtain ⟨e, -⟩ | ⟨c, e, -⟩ := deframed_completion h <;> rw [e]
    exact List.prefix_append _ _

variable (s)

theorem sendWire (wire : List Byte) : LogsContinue s (s.sendWire wire) where
  cfg := by rw [s.sendWire_frame wire]
  txLog := s.sendWire_txLog wire
  atLog := by rw [s.sendWire_frame wire]
  cplLog := by rw [s.sendWire_frame wire]

theorem romBuild (opcode : Byte) (payload : List Byte) (chk : Word32) :
    LogsContinue s (s.romBuild opcode payload chk) := by
  obtain ⟨log, script, draws, r, await, op, hlog, e⟩ := s.romBuild_frame opcode payload chk
  rw [e]
  exact ⟨rfl, hlog, List.prefix_rfl, List.prefix_rfl⟩

theorem romParse (p : List Byte) : LogsContinue s (s.romParse p) :=
  of_deframed (s.romParse_deframed p)

theorem route (seg : List Byte) : LogsContinue s (s.route seg) := by
  rcases s.route_cases seg with e | h
  · rw [e]
    exact ⟨rfl, List.prefix_rfl, List.prefix_append _ _, List.prefix_rfl⟩
  · exact of_deframed h

theorem drainNew : LogsContinue s s.drainNew :=
  have hmoved : LogsContinue s { s with lastPos := s.drainPos } := of_same rfl rfl rfl rfl
  (hmoved.trans (route _ _)).ret _ _

theorem enterMode (m : Mode) : LogsContinue s (s.enterMode m) := by
  rw [s.enterMode_frame m]
  exact of_same rfl rfl rfl rfl

theorem agentStep (a : AgentStep) : LogsContinue s (s.agentStep a) := by
  cases a with
  | dmaConfigure => exact of_same rfl rfl rfl rfl
  | dmaRx b =>
    rw [State.agentStep, s.dmaReceive_frame b]
    exact of_same rfl rfl rfl rfl
  | lineIdle => exact of_same rfl rfl rfl rfl
  | dropIdle =>
    unfold State.agentStep
    dsimp only
    split <;> exact of_same rfl rfl rfl rfl
  | deliver src =>
    rw [State.agentStep, s.deliver_frame src]
    exact of_same rfl rfl rfl rfl
  | reset rem ring frame =>
    exact ⟨rfl, List.prefix_append _ _, List.prefix_append _ _, List.prefix_append _ _⟩

variable {s}

theorem exec {i : Instr} (h : exec i s = .next t) : LogsContinue s t := by
  have houtcome := exec_outcome i s
  rw [h] at houtcome
  cases houtcome with
  | modeEntered m target => exact (enterMode s target).ret _ _
  | cancelled =>
    exact ⟨rfl, List.prefix_rfl, List.prefix_rfl, List.prefix_append _ _⟩
  | drained configured =>
    exact (of_same rfl rfl rfl rfl : LogsContinue s s.takeToken).trans (drainNew _)
  | sent wire => exact sendWire s wire
  | frameSent wire =>
    exact (of_same rfl rfl rfl rfl : LogsContinue s s.closeFrame).trans (sendWire _ wire)
  | received b => exact of_deframed (s.rxByte_deframed b)
  | receivedOk b => exact (of_deframed (s.rxByte_deframed b)).ret _ _
  | built opcode payload chk listed => exact romBuild s opcode payload chk
  | parsed p => exact romParse s p
  | parsedOk p => exact (romParse s p).ret _ _
  | _ => exact of_same rfl rfl rfl rfl

end LogsContinue

/-- Settles O45, by what one step can do; taking an event off the port touches no log. -/
theorem logsAreAppendOnly : Obligations.LogsAreAppendOnly := by
  intro s t ht
  have hport (port : List Event) : LogsContinue s { s with port := port } :=
    .of_same rfl rfl rfl rfl
  suffices h : LogsContinue s t from ⟨h.cfg, h.txLog, h.atLog, h.cplLog⟩
  rcases step_cases s with ⟨-, e⟩ | ⟨a, tail, -, e⟩ | ⟨i, port, -, e⟩ | ⟨p, port, e⟩ | ⟨r, e⟩ <;>
    rw [e] at ht
  · cases ht
    exact .of_same rfl rfl rfl rfl
  · cases ht
    exact (hport tail).trans (.agentStep _ a)
  · exact (hport port).trans (.exec ht)
  · cases ht
    exact (hport port).trans (.romParse _ p)
  · cases ht

end Sys2Proof.Machine
end

section
/-! The escape state of the deframer (spec/10_state.md R37 item 3, spec/42_slip.md R185 to R192). -/

namespace Sys2Proof.Machine

variable {s : State}

/-- Storing a byte is no transition of the deframer's state (R193). -/
theorem State.append_rxfState (s : State) (v : Byte) : (s.append v).rxfState = s.rxfState := by
  rcases s.append_cases v with ⟨-, e⟩ | ⟨-, e⟩ <;> rw [e]

/-- Outside a frame a byte opens one or is discarded (R186, R187). -/
theorem State.rxByte_idle (h : s.rxfState = .idle) (b : Byte) :
    (s.rxByte b).rxfState ≠ .escPending := by
  unfold State.rxByte
  simp only [h]
  split
  · simp [State.startFrame, State.append_rxfState]
  · simp [h]

/-- An 0xDB inside a frame introduces an escape, and changes nothing else (R188). -/
theorem State.rxByte_inFrame_esc (h : s.rxfState = .inFrame) :
    s.rxByte slipEsc = { s with rxfState := .escPending } := by
  unfold State.rxByte
  simp only [h, if_pos]

/-- Every other byte inside a frame ends it, is absorbed or is stored (R189, R190). -/
theorem State.rxByte_inFrame_other (h : s.rxfState = .inFrame) {b : Byte} (hb : b ≠ slipEsc) :
    (s.rxByte b).rxfState ≠ .escPending := by
  unfold State.rxByte
  simp only [h, if_neg hb]
  split_ifs
  · simp [h]
  · simp [State.endFrame]
  · simp [State.append_rxfState, h]

/-- After an escape every byte completes it or is a bad escape (R191, R192). -/
theorem State.rxByte_escPending (h : s.rxfState = .escPending) (b : Byte) :
    (s.rxByte b).rxfState ≠ .escPending := by
  unfold State.rxByte
  simp only [h]
  split_ifs
  · simp [State.appendEscaped]
  · simp [State.appendEscaped]
  · simp [State.badEscape]

/-- Settles O22, by the deframer's state before the byte. -/
theorem escPendingOnlyRightAfterEsc : Obligations.EscPendingOnlyRightAfterEsc := by
  intro s t b ht
  have hbyte : t = s.rxByte b := by
    rw [exec_rxClass] at ht
    rcases s.withFrame_cases (.next (s.rxByte b)) with ⟨-, e⟩ | ⟨-, e⟩ <;> rw [e] at ht
    · exact (Host.Outcome.next.inj ht).symm
    · cases ht
  subst hbyte
  refine ⟨fun hesc => ?_, fun h => State.rxByte_escPending h b⟩
  cases h : s.rxfState with
  | idle => exact absurd hesc (State.rxByte_idle h b)
  | inFrame =>
    by_cases hb : b = slipEsc
    · subst hb
      exact ⟨rfl, rfl, State.rxByte_inFrame_esc h⟩
    · exact absurd hesc (State.rxByte_inFrame_other h hb)
  | escPending => exact absurd hesc (State.rxByte_escPending h b)

end Sys2Proof.Machine
end

section
/-! Noninterference of the stale bytes of FRAME (spec/10_state.md R30): every operation takes two
states that differ in those bytes alone to two such states. -/

namespace Sys2Proof.Machine

/-! ### Operations that do not touch FRAME -/

/-- The state with other contents of FRAME. -/
def State.putFrame (m : Memory) (s : State) : State := { s with frame := m }

/-- FRAME is neither read nor written by `f`. -/
def blindToFrame (f : State → State) : Prop :=
  ∀ (s : State) (m : Memory), f (s.putFrame m) = (f s).putFrame m

theorem spendDraw_blindToFrame : blindToFrame State.spendDraw := by
  intro s m
  unfold State.spendDraw State.putFrame
  dsimp only
  split <;> rfl

theorem sendWire_blindToFrame (wire : List Byte) : blindToFrame (State.sendWire wire) := by
  intro s m
  unfold State.sendWire
  rw [State.uartWrite_eq, State.uartWrite_eq, spendDraw_blindToFrame s m]
  split <;> rfl

theorem romParse_blindToFrame (p : List Byte) : blindToFrame (State.romParse p) :=
  fun s m => s.romParse_commutes p (State.putFrame m) (fun _ _ _ _ => rfl) rfl rfl rfl

theorem enterMode_blindToFrame (target : Mode) : blindToFrame (State.enterMode target) := by
  intro s m
  unfold State.enterMode State.putFrame
  dsimp only
  split <;> rfl

namespace sameButStale

variable {s t : State}

theorem exists_frame (h : sameButStale s t) : ∃ m, t = s.putFrame m := ⟨t.frame, h.1⟩

theorem ite {a a' b b' : State} {c : Prop} [Decidable c] (hthen : sameButStale a a')
    (helse : sameButStale b b') :
    sameButStale (if c then a else b) (if c then a' else b') := by
  split
  · exact hthen
  · exact helse

/-- An operation that does not touch FRAME, and puts none of the stale bytes below RXF_LEN. -/
theorem map {f : State → State} (h : sameButStale s t) (hf : blindToFrame f)
    (hlen : (f s).rxfLen ≤ s.rxfLen) : sameButStale (f s) (f t) := by
  obtain ⟨m, rfl⟩ := h.exists_frame
  obtain ⟨-, hs, ht, hread⟩ := h
  have hkeep : (f s).frame = s.frame := (congrArg State.frame (hf s s.frame) :)
  rw [hf s m]
  exact ⟨rfl, hkeep ▸ hs, ht, fun k hk => hkeep ▸ hread k (Nat.lt_of_lt_of_le hk hlen)⟩

theorem ret (h : sameButStale s t) (code : ResultCode) (value : Nat) :
    sameButStale (s.ret code value) (t.ret code value) :=
  h.map (fun _ _ => rfl) (Nat.le_refl _)

theorem setDiag (h : sameButStale s t) (bits : BitVec 4) :
    sameButStale (s.setDiag bits) (t.setDiag bits) :=
  h.map (fun _ _ => rfl) (Nat.le_refl _)

theorem sendWire (h : sameButStale s t) (wire : List Byte) :
    sameButStale (s.sendWire wire) (t.sendWire wire) :=
  h.map (sendWire_blindToFrame wire) (by rw [s.sendWire_frame wire])

theorem romBuild (h : sameButStale s t) (opcode : Byte) (payload : List Byte) (chk : Word32) :
    sameButStale (s.romBuild opcode payload chk) (t.romBuild opcode payload chk) := by
  have hwire := h.sendWire (requestFrame opcode payload chk)
  have hpend := hwire.map (f := fun u => { u with pendAwait := true, pendOp := opcode })
    (fun _ _ => rfl) (Nat.le_refl _)
  obtain ⟨m, rfl⟩ := h.exists_frame
  exact ite (h.ret _ _) (ite (h.ret _ _) (ite (h.ret _ _) (ite hpend hwire)))

theorem romParse (h : sameButStale s t) (p : List Byte) :
    sameButStale (s.romParse p) (t.romParse p) :=
  h.map (romParse_blindToFrame p) (Nat.le_of_eq (s.romParse_own p).2.1)

theorem resolve (h : sameButStale s t) (c : CompletionCode) (op status : Byte) (v : Word32) :
    sameButStale (s.resolve c op status v) (t.resolve c op status v) :=
  h.map (f := State.resolve c op status v) (fun _ _ => rfl) (Nat.le_refl _)

theorem failPending (h : sameButStale s t) (c : CompletionCode) :
    sameButStale (s.failPending c) (t.failPending c) := by
  obtain ⟨m, rfl⟩ := h.exists_frame
  exact ite (h.resolve c s.pendOp _ _) h

theorem deframerReset (h : sameButStale s t) : sameButStale s.deframerReset t.deframerReset :=
  h.map (fun _ _ => rfl) (Nat.zero_le _)

theorem setState (h : sameButStale s t) (st : RxfState) :
    sameButStale { s with rxfState := st } { t with rxfState := st } :=
  h.map (f := fun u => { u with rxfState := st }) (fun _ _ => rfl) (Nat.le_refl _)

theorem enterMode (h : sameButStale s t) (m : Mode) :
    sameButStale (s.enterMode m) (t.enterMode m) := by
  refine h.map (enterMode_blindToFrame m) ?_
  unfold State.enterMode
  split
  · exact Nat.le_refl _
  · exact Nat.zero_le _
  · exact Nat.le_refl _

theorem closeFrame (h : sameButStale s t) : sameButStale s.closeFrame t.closeFrame :=
  h.map (fun _ _ => rfl) (Nat.le_refl _)

theorem takeToken (h : sameButStale s t) : sameButStale s.takeToken t.takeToken :=
  h.map (fun _ _ => rfl) (Nat.le_refl _)

theorem postToken (h : sameButStale s t) : sameButStale s.postToken t.postToken :=
  h.map (fun _ _ => rfl) (Nat.le_refl _)

/-! ### The deframer -/

/-- The bytes below RXF_LEN, which the hand-off reads, are the same (R30). -/
theorem frameBytes_eq (h : sameButStale s t) : s.frameBytes = t.frameBytes := by
  obtain ⟨m, rfl⟩ := h.exists_frame
  exact Memory.slice_congr fun k _ hk => h.2.2.2 k hk

/-- A byte stored at RXF_LEN replaces the stale byte there. -/
theorem append (h : sameButStale s t) (v : Byte) : sameButStale (s.append v) (t.append v) := by
  obtain ⟨m, rfl⟩ := h.exists_frame
  rcases s.append_cases v with ⟨hlen, e⟩ | ⟨hlen, e⟩
  · obtain ⟨-, hs, (ht : m.wf), hread⟩ := h
    have e' : (s.putFrame m).append v =
        { s with frame := m.write s.rxfLen v, rxfLen := s.rxfLen + 1 } := if_pos hlen
    rw [e, e']
    refine ⟨rfl, Memory.write_wf hs _ _, Memory.write_wf ht _ _, fun k hk => ?_⟩
    dsimp only at hk ⊢
    obtain hlt | rfl := Nat.lt_succ_iff_lt_or_eq.mp hk
    · rw [Memory.read_write_other _ _ (Nat.ne_of_lt hlt),
        Memory.read_write_other _ _ (Nat.ne_of_lt hlt)]
      exact hread k hlt
    · rw [Memory.read_write_same hs, Memory.read_write_same ht]
  · have e' : (s.putFrame m).append v =
        { s with frame := m, rxfTrunc := true, diag := s.diag ||| diagOvf } :=
      if_neg (Nat.not_lt.mpr hlen)
    rw [e, e']
    exact h.map (f := fun u => { u with rxfTrunc := true, diag := u.diag ||| diagOvf })
      (fun _ _ => rfl) (Nat.le_refl _)

theorem handOff (h : sameButStale s t) : sameButStale s.handOff t.handOff := by
  have htrunc : t.rxfTrunc = s.rxfTrunc := by rw [h.1]
  unfold State.handOff State.romReceive
  rw [h.frameBytes_eq, htrunc]
  exact h.romParse _

theorem rxByte (h : sameButStale s t) (b : Byte) : sameButStale (s.rxByte b) (t.rxByte b) := by
  obtain ⟨m, rfl⟩ := h.exists_frame
  have hst : (s.putFrame m).rxfState = s.rxfState := rfl
  unfold State.rxByte
  rw [hst]
  cases s.rxfState with
  | idle => exact ite ((h.setState _).append _) h
  | inFrame =>
    exact ite (h.setState _) (ite h (ite (h.append _).handOff.deframerReset (h.append b)))
  | escPending =>
    exact ite ((h.append _).setState _) (ite ((h.append _).setState _)
      ((h.setDiag _).failPending _).deframerReset)

theorem rxBytes (h : sameButStale s t) (bs : List Byte) :
    sameButStale (s.rxBytes bs) (t.rxBytes bs) := by
  induction bs generalizing s t with
  | nil => exact h
  | cons b bs ih => exact ih (h.rxByte b)

/-! ### The byte source -/

theorem route (h : sameButStale s t) (seg : List Byte) :
    sameButStale (s.route seg) (t.route seg) := by
  have hmode : t.mode = s.mode := by rw [h.1]
  unfold State.route
  rw [hmode]
  cases s.mode with
  | uninitialized => exact h
  | running => exact h.map (f := State.feedAt seg) (fun _ _ => rfl) (Nat.le_refl _)
  | flashing => exact h.rxBytes seg

theorem drainNew (h : sameButStale s t) : sameButStale s.drainNew t.drainNew := by
  have hnew : t.newBytes = s.newBytes := by rw [h.1]; rfl
  have hmoved : sameButStale { s with lastPos := s.drainPos } { t with lastPos := t.drainPos } :=
    h.map (f := fun u => { u with lastPos := u.drainPos }) (fun _ _ => rfl) (Nat.le_refl _)
  unfold State.drainNew
  rw [hnew]
  exact (hmoved.route _).ret _ _

end sameButStale

/-! ### Instructions -/

/-- The checks of an instruction read none of FRAME, so both states take the same branch. -/
theorem sameOutcome_ite {c : Prop} [Decidable c] {o o' q q' : Host.Outcome State Fault Refusal}
    (hthen : sameOutcome o o') (helse : sameOutcome q q') :
    sameOutcome (if c then o else q) (if c then o' else q') := by
  split
  · exact hthen
  · exact helse

namespace sameButStale

variable {s t : State} {o o' : Host.Outcome State Fault Refusal}

theorem withFrame (h : sameButStale s t) (ho : sameOutcome o o') :
    sameOutcome (s.withFrame o) (t.withFrame o') := by
  obtain ⟨m, rfl⟩ := h.exists_frame
  exact sameOutcome_ite ho rfl

theorem withRing (h : sameButStale s t) (ho : sameOutcome o o') :
    sameOutcome (s.withRing o) (t.withRing o') := by
  obtain ⟨m, rfl⟩ := h.exists_frame
  exact sameOutcome_ite ho rfl

theorem setmode (h : sameButStale s t) (b : Byte) :
    sameOutcome (execSetmode b s) (execSetmode b t) := by
  obtain ⟨m, rfl⟩ := h.exists_frame
  unfold execSetmode
  cases modeOperand b with
  | none => exact h.ret _ _
  | some target =>
    exact sameOutcome_ite (h.ret _ _) (sameOutcome_ite (h.ret _ _) ((h.enterMode target).ret _ _))

theorem setdev (h : sameButStale s t) (p : Byte) :
    sameOutcome (execSetdev p s) (execSetdev p t) := by
  unfold execSetdev
  cases presentOperand p with
  | none => exact h.ret _ _
  | some present =>
    have hset := h.map (f := fun u => { u with devPresent := present }) (fun _ _ => rfl)
      (Nat.le_refl _)
    exact hset.ret _ _

theorem rxsig (h : sameButStale s t) (src : Byte) :
    sameOutcome (execRxsig src s) (execRxsig src t) := by
  unfold execRxsig
  cases sourceOperand src with
  | none => exact h.ret _ _
  | some _ => exact h.postToken.ret _ _

theorem drain (h : sameButStale s t) : sameOutcome (execDrain s) (execDrain t) := by
  have hdrain : sameOutcome (.next s.takeToken.drainNew) (.next t.takeToken.drainNew) :=
    h.takeToken.drainNew
  have hmode : t.mode = s.mode := by rw [h.1]
  have hdev : t.devPresent = s.devPresent := by rw [h.1]
  unfold execDrain
  rw [hdev, hmode]
  refine sameOutcome_ite (h.takeToken.ret _ _) ?_
  cases s.mode with
  | uninitialized => exact h.takeToken.ret _ _
  | running => exact h.withRing hdrain
  | flashing => exact h.withRing (h.withFrame hdrain)

theorem slipBegin (h : sameButStale s t) : sameOutcome (execSlipBegin s) (execSlipBegin t) := by
  have hbegun := h.map (f := fun u => { u with txOpen := true, txPend := [slipEnd] })
    (fun _ _ => rfl) (Nat.le_refl _)
  obtain ⟨m, rfl⟩ := h.exists_frame
  exact sameOutcome_ite (h.ret _ _) (sameOutcome_ite (h.ret _ _) (hbegun.ret _ _))

theorem txAppend (h : sameButStale s t) (wire : List Byte) :
    sameButStale (s.txAppend wire) (t.txAppend wire) := by
  have hextended := h.map (f := fun u => { u with txPend := u.txPend ++ wire }) (fun _ _ => rfl)
    (Nat.le_refl _)
  obtain ⟨m, rfl⟩ := h.exists_frame
  exact ite (h.ret _ _) (hextended.ret _ _)

theorem sendRequest (h : sameButStale s t) (legal : Bool) (opcode : Byte) (payload : List Byte)
    (chk : Word32) :
    sameButStale (s.sendRequest legal opcode payload chk)
      (t.sendRequest legal opcode payload chk) :=
  ite (h.ret _ _) (h.romBuild opcode payload chk)

theorem received (h : sameButStale s t) (b : Byte) :
    sameOutcome (s.withFrame (.next (s.rxByte b))) (t.withFrame (.next (t.rxByte b))) :=
  h.withFrame (h.rxByte b)

end sameButStale

/-- Settles O48: the two states pass the same checks, and each outcome is made of operations that keep
them alike. -/
theorem staleFrameBytesAreNeverRead : Obligations.StaleFrameBytesAreNeverRead := by
  intro s t i h
  obtain ⟨frame, rfl⟩ := h.exists_frame
  cases i with
  | setmode m => exact h.setmode m
  | getmode => exact h.ret _ _
  | setdev p => exact h.setdev p
  | cancel => exact sameOutcome_ite (h.ret _ _) ((h.resolve _ s.pendOp _ _).ret _ _)
  | rddiag =>
    have hcleared := h.map (f := fun u => { u with diag := 0#4 }) (fun _ _ => rfl) (Nat.le_refl _)
    exact hcleared.ret _ _
  | rxsig src => exact h.rxsig src
  | drain => exact h.drain
  | send data =>
    exact sameOutcome_ite (h.ret _ _) (sameOutcome_ite (h.ret _ _)
      (sameOutcome_ite (h.ret _ _) (h.sendWire data)))
  | slipBegin => exact h.slipBegin
  | slipByte b => exact h.txAppend _
  | slipEnd =>
    exact sameOutcome_ite (h.ret _ _) (sameOutcome_ite (h.closeFrame.ret _ _)
      (h.closeFrame.sendWire (s.txPend ++ [slipEnd])))
  | slipRxbyte b => exact sameOutcome_ite (h.ret _ _) (h.withFrame ((h.rxByte b).ret _ _))
  | romSync => exact h.romBuild _ _ _
  | romReadreg addr => exact h.romBuild _ _ _
  | romFbegin size off => exact h.romBuild _ _ _
  | romFdata seq data => exact sameOutcome_ite (h.ret _ _) (h.romBuild _ _ _)
  | romFend => exact h.romBuild _ _ _
  | romParse packet =>
    exact sameOutcome_ite (h.ret _ _) (sameOutcome_ite (h.ret _ _) ((h.romParse _).ret _ _))
  | flashBegin chk payload => exact h.sendRequest _ _ _ _
  | flashData chk payload => exact h.sendRequest _ _ _ _
  | flashEnd chk payload => exact h.sendRequest _ _ _ _
  | sync chk payload => exact h.sendRequest _ _ _ _
  | writeReg chk payload => exact rfl
  | readReg chk payload => exact h.sendRequest _ _ _ _
  | response rest => exact h.romParse _
  | rxEnd => exact h.received _
  | rxEsc => exact h.received _
  | rxEscEnd => exact h.received _
  | rxEscEsc => exact h.received _
  | rxOther b => exact h.received b
  | txEscEnd => exact h.txAppend _
  | txEscEsc => exact h.txAppend _
  | txLiteral b => exact h.txAppend _

end Sys2Proof.Machine
end

section
/-! The ring and its DMA agent (spec/20_memory.md R64, R68, spec/40_byte_source.md R136): a range of
the ring that may wrap, and what a run of arrivals leaves in it. -/

namespace Sys2Proof.Machine

/-- The `n` bytes from index `l` of a ring of `cap` bytes, in the order in which they arrived. -/
def Memory.ringRange (m : Memory) (cap l n : Nat) : List Byte :=
  (List.range n).map fun k => m.read ((l + k) % cap)

namespace Memory

variable {m : Memory} {cap l n : Nat}

@[simp] theorem ringRange_zero : m.ringRange cap l 0 = [] := rfl

@[simp] theorem ringRange_length : (m.ringRange cap l n).length = n := by simp [ringRange]

theorem ringRange_succ :
    m.ringRange cap l (n + 1) = m.ringRange cap l n ++ [m.read ((l + n) % cap)] := by
  simp [ringRange, List.range_succ]

/-- Before the wrap a range of the ring is a slice of it. -/
theorem ringRange_of_le (h : l + n ≤ cap) : m.ringRange cap l n = m.slice l (l + n) := by
  induction n with
  | zero => simp [slice]
  | succ n ih =>
    rw [ringRange_succ, ih (by omega), Nat.mod_eq_of_lt (by omega), ← slice_succ m (by omega),
      Nat.add_assoc]

/-- A range that reaches past the end goes on at index 0. -/
theorem ringRange_of_ge (hl : l ≤ cap) (hn : n ≤ cap) (h : cap ≤ l + n) :
    m.ringRange cap l n = m.slice l cap ++ m.slice 0 (l + n - cap) := by
  obtain ⟨w, rfl⟩ : ∃ w, n = cap - l + w := ⟨l + n - cap, by omega⟩
  induction w with
  | zero => rw [ringRange_of_le (by omega)]; simp [slice, hl]
  | succ w ih =>
    have hidx : (l + (cap - l + w)) % cap = w := by
      rw [show l + (cap - l + w) = cap + w by omega, Nat.add_mod_left, Nat.mod_eq_of_lt (by omega)]
    have hend : l + (cap - l + (w + 1)) - cap = w + 1 := by omega
    have hend' : l + (cap - l + w) - cap = w := by omega
    rw [← Nat.add_assoc, ringRange_succ, ih (by omega) (by omega), hidx, Nat.add_assoc, hend, hend',
      slice_succ m (Nat.zero_le w), List.append_assoc]

/-- A byte written right behind a range is outside it, if the range is not the whole ring. -/
theorem ringRange_write_end (hn : n < cap) (b : Byte) :
    (m.write ((l + n) % cap) b).ringRange cap l n = m.ringRange cap l n := by
  refine List.map_congr_left fun k hk => read_write_other m b fun heq => ?_
  have hkn : k < n := List.mem_range.mp hk
  have hmod : k ≡ n [MOD cap] := Nat.ModEq.add_left_cancel' l heq
  exact absurd (hmod.eq_of_lt_of_lt (by omega) hn) (by omega)

/-- A byte written right behind a range extends it by that byte. -/
theorem ringRange_succ_write_end (hm : m.wf) (hn : n < cap) (b : Byte) :
    (m.write ((l + n) % cap) b).ringRange cap l (n + 1) = m.ringRange cap l n ++ [b] := by
  rw [ringRange_succ, ringRange_write_end hn, read_write_same hm]

end Memory

variable {s : State}

/-- R136: the segment from `l` to the position `n` bytes after it is that range of the ring. -/
theorem State.segment_eq_ringRange {l n : Nat} (hl : l < s.cfg.rxCap) (hn : n < s.cfg.rxCap) :
    s.segment l ((l + n) % s.cfg.rxCap) = s.rxbuf.ringRange s.cfg.rxCap l n := by
  unfold State.segment
  rcases Nat.lt_or_ge (l + n) s.cfg.rxCap with hlt | hge
  · rw [Nat.mod_eq_of_lt hlt, Memory.ringRange_of_le hlt.le]
    split_ifs with h0 hbelow
    · simp [Memory.slice, h0]
    · rfl
    · omega
  · have hw : (l + n) % s.cfg.rxCap = l + n - s.cfg.rxCap := by
      rw [Nat.mod_eq_sub_mod hge, Nat.mod_eq_of_lt (by omega)]
    rw [hw, if_neg (by omega), if_neg (by omega), Memory.ringRange_of_ge hl.le hn.le hge]

/-! ### One step of the DMA agent -/

theorem step_of_port_agent {a : AgentStep} {tail : List Event} (hport : s.port = .agent a :: tail) :
    step s = .next ({ s with port := tail }.agentStep a) := by
  simp only [step, hport]

/-- The one byte of RXBUF that DMA_RX writes (R64). -/
theorem State.dmaReceive_rxbuf (b : Byte) (ha : s.dmaActive = true) :
    (s.dmaReceive b).rxbuf = s.rxbuf.write s.dmaPos b := by
  rw [State.dmaReceive, if_neg (by simp [ha])]

/-- A count of 0 is about to be reloaded, so it is taken as RX_CAP (R64; log 16). -/
theorem State.dmaReceive_of_count_zero (b : Byte) (ha : s.dmaActive = true)
    (h0 : s.dmaRemaining = 0) :
    s.dmaReceive b = ({ s with dmaRemaining := s.cfg.rxCap } : State).dmaReceive b := by
  have hpos : ({ s with dmaRemaining := s.cfg.rxCap } : State).dmaPos = s.dmaPos := by
    simp [State.dmaPos, h0]
  have hcount : ({ s with dmaRemaining := s.cfg.rxCap } : State).dmaNextCount = s.dmaNextCount := by
    simp [State.dmaNextCount, h0]
  have hne : ¬ s.dmaActive = false := by simp [ha]
  rw [State.dmaReceive, State.dmaReceive, if_neg hne, if_neg hne, hpos, hcount]

theorem State.dmaStart_dmaPos (s : State) : s.dmaStart.dmaPos = 0 := by simp [State.dmaPos]

/-- Settles O34, by the agent's step for a byte and for the configuration. -/
theorem dmaByteWriteStep : Obligations.DmaByteWriteStep := by
  intro s b tail
  refine ⟨fun hport => ⟨fun ha hwf h1 _ => ?_, fun ha h0 => ?_, fun ha => ?_⟩, fun hport => ?_⟩
  · have hbuf : (({ s with port := tail } : State).dmaReceive b).rxbuf = s.rxbuf.write s.dmaPos b :=
      State.dmaReceive_rxbuf (s := { s with port := tail }) b ha
    refine ⟨({ s with port := tail } : State).dmaReceive b, step_of_port_agent hport, ?_, ?_,
      fun a hne => ?_⟩ <;> rw [hbuf]
    · exact State.dmaReceive_active { s with port := tail } b ha h1
    · exact Memory.read_write_same hwf _ b
    · exact Memory.read_write_other _ b hne
  · rw [step_of_port_agent hport,
      step_of_port_agent (s := { s with dmaRemaining := s.cfg.rxCap }) hport]
    exact congrArg _ (State.dmaReceive_of_count_zero (s := { s with port := tail }) b ha h0)
  · rw [step_of_port_agent hport]
    exact congrArg _ (if_pos ha)
  · exact ⟨_, step_of_port_agent hport, rfl, State.dmaStart_dmaPos _⟩

/-! ### A run of arrivals -/

theorem State.dmaReceiveAll_concat (s : State) (bs : List Byte) (b : Byte) :
    s.dmaReceiveAll (bs ++ [b]) = (s.dmaReceiveAll bs).dmaReceive b := by
  simp [State.dmaReceiveAll]

/-- Arrivals change RXBUF, the count and two pending bits, and nothing else (R64). -/
theorem State.dmaReceiveAll_frame (s : State) (bs : List Byte) :
    s.dmaReceiveAll bs = { s with
      rxbuf := (s.dmaReceiveAll bs).rxbuf, dmaRemaining := (s.dmaReceiveAll bs).dmaRemaining,
      irqHt := (s.dmaReceiveAll bs).irqHt, irqTc := (s.dmaReceiveAll bs).irqTc } := by
  induction bs using List.reverseRecOn with
  | nil => rfl
  | append_singleton bs b ih =>
    rw [State.dmaReceiveAll_concat, State.dmaReceive_frame, ih]

theorem State.dmaReceiveAll_cfg (s : State) (bs : List Byte) :
    (s.dmaReceiveAll bs).cfg = s.cfg := by rw [State.dmaReceiveAll_frame]

theorem State.dmaReceiveAll_dmaActive (s : State) (bs : List Byte) :
    (s.dmaReceiveAll bs).dmaActive = s.dmaActive := by rw [State.dmaReceiveAll_frame]

theorem Inv.dmaReceiveAll (h : Inv s) (bs : List Byte) : Inv (s.dmaReceiveAll bs) := by
  induction bs using List.reverseRecOn with
  | nil => exact h
  | append_singleton bs b ih => rw [State.dmaReceiveAll_concat]; exact ih.dmaReceive b

/-- The write position counts the arrivals modulo RX_CAP, however many they are (R64). -/
theorem Inv.dmaReceiveAll_dmaPos (h : Inv s) (ha : s.dmaActive = true) (bs : List Byte) :
    (s.dmaReceiveAll bs).dmaPos = (s.dmaPos + bs.length) % s.cfg.rxCap := by
  induction bs using List.reverseRecOn with
  | nil => exact (Nat.mod_mod _ _).symm
  | append_singleton bs b ih =>
    have hinv := h.dmaReceiveAll bs
    have hpos := (State.dmaReceive_pos _ b ((s.dmaReceiveAll_dmaActive bs).trans ha)
      hinv.dmaCount hinv.rxCap_pos).1
    rw [State.dmaReceiveAll_concat, hpos, s.dmaReceiveAll_cfg, ih, Nat.mod_add_mod, Nat.add_assoc,
      List.length_append, List.length_singleton]

/-- As long as they do not go round the ring, the arrivals stand in it in order (R64, R68). -/
theorem Inv.ringRange_dmaReceiveAll (h : Inv s) (ha : s.dmaActive = true) {bs : List Byte}
    (hbs : bs.length ≤ s.cfg.rxCap) :
    (s.dmaReceiveAll bs).rxbuf.ringRange s.cfg.rxCap s.dmaPos bs.length = bs := by
  induction bs using List.reverseRecOn with
  | nil => rfl
  | append_singleton bs b ih =>
    rw [List.length_append, List.length_singleton] at hbs ⊢
    rw [State.dmaReceiveAll_concat,
      State.dmaReceive_rxbuf b ((s.dmaReceiveAll_dmaActive bs).trans ha),
      h.dmaReceiveAll_dmaPos ha, Memory.ringRange_succ_write_end (h.dmaReceiveAll bs).ringForm hbs,
      ih (by omega)]

/-- DRAIN's newly arrived bytes are the ones that arrived, if they are fewer than RX_CAP (R136). -/
theorem Inv.newBytes_dmaReceiveAll (h : Inv s) (hd : s.drained) (ha : s.dmaActive = true)
    {bs : List Byte} (hbs : bs.length < s.cfg.rxCap) : (s.dmaReceiveAll bs).newBytes = bs := by
  have hcfg := s.dmaReceiveAll_cfg bs
  have hlast : (s.dmaReceiveAll bs).lastPos = s.dmaPos := by
    rw [s.dmaReceiveAll_frame bs]; exact hd.symm
  have hpos : (s.dmaReceiveAll bs).drainPos = (s.dmaPos + bs.length) % s.cfg.rxCap :=
    h.dmaReceiveAll_dmaPos ha bs
  have hrange : (s.dmaReceiveAll bs).segment s.dmaPos ((s.dmaPos + bs.length) % s.cfg.rxCap) =
      (s.dmaReceiveAll bs).rxbuf.ringRange s.cfg.rxCap s.dmaPos bs.length := by
    rw [← hcfg] at hbs ⊢
    exact State.segment_eq_ringRange (by rw [hcfg]; exact s.drainPos_lt h.rxCap_pos) hbs
  rw [State.newBytes, hlast, hpos, hrange, h.ringRange_dmaReceiveAll ha hbs.le]

end Sys2Proof.Machine
end

section
/-! DRAIN with a device and a transport (spec/40_byte_source.md R132, R133, spec/20_memory.md R63,
R68): what one drain delivers, and what it leaves for a second one. -/

namespace Sys2Proof.Machine

variable {s : State}

/-- A DRAIN with a device, a transport and indices that exist succeeds (R132). -/
theorem exec_drain_configured (hdev : s.devPresent = true) (hmode : s.mode ≠ .uninitialized)
    (hring : s.lastPos < s.cfg.rxCap) (hframe : s.rxfLen ≤ frameCap) :
    exec .drain s = .next s.takeToken.drainNew := by
  rw [exec_drain_eq]
  rcases execDrain_cases s with ⟨hno, -⟩ | ⟨-, hun, -⟩ | ⟨-, -, e⟩ | ⟨-, -, e⟩
  · simp [hdev] at hno
  · exact absurd hun hmode
  · rw [e, State.withRing, if_pos hring]
  · rw [e, State.withRing, if_pos hring, State.withFrame, if_pos hframe]

theorem Inv.exec_drain (h : Inv s) (hdev : s.devPresent = true) (hmode : s.mode ≠ .uninitialized) :
    Machine.exec .drain s = .next s.takeToken.drainNew :=
  exec_drain_configured hdev hmode h.lastPos h.frameLen

/-- Settles O55: the newly arrived bytes are those of the arrivals, which left every field that a
drain keeps as it was. -/
theorem drainDeliversWhatArrived : Obligations.DrainDeliversWhatArrived := by
  intro s u bs h hd ha hdev hbs hu
  have hnew : u.newBytes = bs := hu ▸ h.newBytes_dmaReceiveAll hd ha hbs
  have hpos : u.drainPos = (s.lastPos + bs.length) % s.cfg.rxCap := by
    rw [← hd, hu]; exact h.dmaReceiveAll_dmaPos ha bs
  have hinv : Inv u := hu ▸ h.dmaReceiveAll bs
  have hframe := s.dmaReceiveAll_frame bs
  rw [← hu] at hframe
  have hudev : u.devPresent = true := by rw [hframe]; exact hdev
  have humode : u.mode = s.mode := by rw [hframe]
  have htokens : u.nqCount = s.nqCount := by rw [hframe]
  have hlog : u.atLog = s.atLog := by rw [hframe]
  refine ⟨fun hm => ?_, fun hm => ?_⟩
  · rw [hinv.exec_drain hudev (by simp [humode, hm]), u.drainNew_running (humode.trans hm), hnew,
      hpos, htokens, hlog]
  · rw [hinv.exec_drain hudev (by simp [humode, hm]), u.drainNew_flashing (humode.trans hm), hnew,
      hpos, htokens]

/-! ### A second drain -/

/-- An append keeps RXF_LEN a length FRAME can have: at capacity the byte is dropped (R193). -/
theorem State.append_rxfLen_le (h : s.rxfLen ≤ frameCap) (v : Byte) :
    (s.append v).rxfLen ≤ frameCap := by
  rcases s.append_cases v with ⟨hlt, e⟩ | ⟨-, e⟩ <;> rw [e]
  · exact hlt
  · exact h

/-- A received byte stores at most one byte, or resets the deframer (R185, R194). -/
theorem State.rxByte_rxfLen_le (h : s.rxfLen ≤ frameCap) (b : Byte) :
    (s.rxByte b).rxfLen ≤ frameCap := by
  unfold State.rxByte
  split
  · split_ifs
    · exact State.append_rxfLen_le (s := { s with rxfState := .inFrame }) h slipEnd
    · exact h
  · split_ifs
    · exact h
    · exact h
    · exact Nat.zero_le _
    · exact State.append_rxfLen_le h b
  · split_ifs
    · exact State.append_rxfLen_le h slipEnd
    · exact State.append_rxfLen_le h slipEsc
    · exact Nat.zero_le _

theorem State.rxBytes_rxfLen_le (h : s.rxfLen ≤ frameCap) (bs : List Byte) :
    (s.rxBytes bs).rxfLen ≤ frameCap := by
  induction bs generalizing s with
  | nil => exact h
  | cons b bs ih => exact ih (State.rxByte_rxfLen_le h b)

theorem State.drainNew_rxfLen_le (h : s.rxfLen ≤ frameCap) : s.drainNew.rxfLen ≤ frameCap := by
  unfold State.drainNew State.route
  split
  · exact h
  · exact State.rxBytes_rxfLen_le (s := { s with lastPos := s.drainPos }) h s.newBytes
  · exact h

/-- A drain moves LAST_POS to the write position, and writes ATLOG, the deframer, DIAG, the pending
request and the result alone (R132, R133). -/
theorem State.drainNew_frame (s : State) :
    s.drainNew = { s with
      lastPos := s.drainPos, rxfState := s.drainNew.rxfState, rxfLen := s.drainNew.rxfLen,
      frame := s.drainNew.frame, rxfTrunc := s.drainNew.rxfTrunc, diag := s.drainNew.diag,
      pendAwait := s.drainNew.pendAwait, cplLog := s.drainNew.cplLog, atLog := s.drainNew.atLog,
      result := s.drainNew.result } := by
  unfold State.drainNew
  rcases ({ s with lastPos := s.drainPos } : State).route_cases s.newBytes with e | h
  · rw [e]; rfl
  · rw [deframed_frame h]; rfl

/-- Routing no byte changes nothing (R133). -/
theorem State.route_nil (s : State) : s.route [] = s := by
  unfold State.route
  split
  · simp [State.feedAt]
  · rfl
  · rfl

/-- With nothing arrived, a drain changes the result alone (R132, R136). -/
theorem State.drainNew_of_drained (hd : s.drained) : s.drainNew = s.ret .ok 0 := by
  have hnew : s.newBytes = [] := by
    rw [State.newBytes, State.segment, if_pos hd]
  rw [State.drainNew, hnew, State.route_nil, hd]
  rfl

/-- Settles O58: after the first drain LAST_POS is the write position, so the second finds nothing
newly arrived. -/
theorem drainIsIdempotent : Obligations.DrainIsIdempotent := by
  intro s hdev hmode hring hlen
  have hframe := s.takeToken.drainNew_frame
  generalize ht : s.takeToken.drainNew = t at hframe
  refine ⟨t, ht ▸ exec_drain_configured hdev hmode hring hlen, ?_⟩
  have hdrained : t.drained := by rw [hframe]; rfl
  have htdev : t.devPresent = true := by rw [hframe]; exact hdev
  have htmode : t.mode ≠ .uninitialized := by rw [hframe]; exact hmode
  have htring : t.lastPos < t.cfg.rxCap := by
    rw [hframe]; exact s.drainPos_lt (Nat.zero_lt_of_lt hring)
  have htlen : t.rxfLen ≤ frameCap := ht ▸ State.drainNew_rxfLen_le (s := s.takeToken) hlen
  rw [exec_drain_configured htdev htmode htring htlen,
    State.drainNew_of_drained (s := t.takeToken) hdrained]
  rfl

end Sys2Proof.Machine
end

section
/-! The bytes the deframer stores (spec/42_slip.md R186, R190, R191, R193, spec/20_memory.md R62):
each row that stores a byte appends it, and an append writes FRAME at RXF_LEN alone. -/

namespace Sys2Proof.Machine

variable {s : State} {v : Byte}

/-- R186: the delimiter that opens a frame. -/
theorem State.rxByte_idle_end (h : s.rxfState = .idle) :
    s.rxByte slipEnd = { s with rxfState := .inFrame }.append slipEnd := by
  simp [State.rxByte, h, State.startFrame]

/-- R190: an ordinary byte. -/
theorem State.rxByte_inFrame_ordinary (h : s.rxfState = .inFrame) (hesc : v ≠ slipEsc)
    (hend : v ≠ slipEnd) : s.rxByte v = s.append v := by
  simp [State.rxByte, h, hesc, hend]

/-- R191: the byte that 0xDB 0xDC stands for. -/
theorem State.rxByte_escPending_escEnd (h : s.rxfState = .escPending) :
    s.rxByte slipEscEnd = s.appendEscaped slipEnd := by
  simp [State.rxByte, h]

/-- R191: the byte that 0xDB 0xDD stands for. -/
theorem State.rxByte_escPending_escEsc (h : s.rxfState = .escPending) :
    s.rxByte slipEscEsc = s.appendEscaped slipEsc := by
  simp [State.rxByte, h, show slipEscEsc ≠ slipEscEnd by decide]

/-- `t` is `s` with the byte `v` stored at RXF_LEN, as far as FRAME and RXF_LEN go. -/
def storesByte (s t : State) (v : Byte) : Prop :=
  t.rxfLen = s.rxfLen + 1 ∧ t.frame = s.frame.write s.rxfLen v

theorem State.append_storesByte (hlen : s.rxfLen < frameCap) (v : Byte) :
    storesByte s (s.append v) v := by
  rw [State.append, if_pos hlen]
  exact ⟨rfl, rfl⟩

/-- Every row that stores a byte completes, with that byte stored (R186, R190, R191). -/
theorem exec_stores {i : Instr} (hlen : s.rxfLen < frameCap) (hi : i.wellFormed = true)
    (hv : storedByte s.rxfState i = some v) :
    ∃ t, exec i s = .next t ∧ storesByte s t v := by
  have hcompletes : ∀ o, s.withFrame o = o := fun o => if_pos hlen.le
  unfold storedByte at hv
  split at hv <;> cases hv <;> refine ⟨_, hcompletes _, ?_⟩
  · next hst =>
    rw [State.rxByte_idle_end hst]
    exact State.append_storesByte (s := { s with rxfState := .inFrame }) hlen slipEnd
  · next hst =>
    rw [State.rxByte_inFrame_ordinary hst (by decide) (by decide)]
    exact State.append_storesByte hlen slipEscEnd
  · next hst =>
    rw [State.rxByte_inFrame_ordinary hst (by decide) (by decide)]
    exact State.append_storesByte hlen slipEscEsc
  · next hst =>
    rw [State.rxByte_inFrame_ordinary hst (by rintro rfl; exact absurd hi (by decide))
      (by rintro rfl; exact absurd hi (by decide))]
    exact State.append_storesByte hlen v
  · next hst =>
    rw [State.rxByte_escPending_escEnd hst]
    exact State.append_storesByte hlen slipEnd
  · next hst =>
    rw [State.rxByte_escPending_escEsc hst]
    exact State.append_storesByte hlen slipEsc

/-- Settles O19: the byte is stored by one write of FRAME, at RXF_LEN. -/
theorem deframerStoreTouchesOneByte : Obligations.DeframerStoreTouchesOneByte := by
  intro s i v hwf hlen hi hv
  obtain ⟨t, hexec, hrxfLen, hframe⟩ := exec_stores hlen hi hv
  refine ⟨t, hexec, hrxfLen, ?_, fun a hne => ?_⟩ <;> rw [hframe]
  · exact Memory.read_write_same hwf _ v
  · exact Memory.read_write_other _ v hne

end Sys2Proof.Machine
end

section
/-! The decoder and the encoder are inverse to each other, in each of the five formats
(spec/30_encoding.md R91, R92, R94, R95, R98, R100, R101, spec/42_slip.md R181). -/

namespace Sys2Proof

/-! ### Decoding an encoding -/

/-- A data field reads back behind the 16-bit length field of its encoding (R92, R101). -/
theorem withData_length16 {data : List Byte} (h : fits16 data = true) (rest : List Byte)
    (k : List Byte → List Byte → Decoded) :
    withData (BitVec.ofNat 16 data.length).toNat (data ++ rest) k = k data rest := by
  rw [toNat_length16 h, withData_append]

/-- A data field reads back behind the 8-bit length field of its encoding (R101). -/
theorem withData_length8 {data : List Byte} (h : fits8 data = true) (rest : List Byte)
    (k : List Byte → List Byte → Decoded) :
    withData (BitVec.ofNat 8 data.length).toNat (data ++ rest) k = k data rest := by
  rw [toNat_length8 h, withData_append]

theorem decodeHostOp_send (operands : List Byte) :
    decodeHostOp (0x12#8 :: operands) = withWord16 operands fun n t =>
      withData n.toNat t fun data t => .ok (.send data, t) := rfl

theorem decodeHostOp_romReadreg (operands : List Byte) :
    decodeHostOp (0x31#8 :: operands) = withWord32 operands fun addr t =>
      .ok (.romReadreg addr, t) := rfl

theorem decodeHostOp_romFbegin (operands : List Byte) :
    decodeHostOp (0x32#8 :: operands) = withWord32 operands fun size t =>
      withWord32 t fun off t => .ok (.romFbegin size off, t) := rfl

theorem decodeHostOp_romFdata (operands : List Byte) :
    decodeHostOp (0x33#8 :: operands) = withWord32 operands fun seq t =>
      withWord16 t fun n t => withData n.toNat t fun data t => .ok (.romFdata seq data, t) := rfl

theorem decodeHostOp_romParse (operands : List Byte) :
    decodeHostOp (0x35#8 :: operands) = withByte operands fun n t =>
      withData n.toNat t fun frame t => .ok (.romParse frame, t) := rfl

/-- Every request packet with an opcode of R95 reads back, field by field (R92). -/
theorem decodeRequest_requestPacket {opcode : Byte} {chk : Word32} {payload : List Byte} {i : Instr}
    (hfits : fits16 payload = true) (hi : requestOf opcode chk payload = some i)
    (rest : List Byte) :
    decodeRequest (requestPacket opcode payload chk ++ rest) = .ok (i, rest) := by
  simp only [requestPacket, List.cons_append, List.nil_append, List.append_assoc, decodeRequest,
    reduceIte, withByte_cons, withWord16_le16, withWord32_le32, withData_length16 hfits, hi]

/-- R91: a byte without a class of its own is RX_OTHER's. -/
theorem rxClass_other {b : Byte} (h : isOtherByte b = true) : rxClass b = .rxOther b := by
  simp only [isOtherByte, Bool.not_eq_true', Bool.or_eq_false_iff, beq_eq_false_iff_ne] at h
  obtain ⟨⟨⟨hend, hesc⟩, hescEnd⟩, hescEsc⟩ := h
  simp [rxClass, hend, hesc, hescEnd, hescEsc]

/-- R181: a byte that is not escaped is TX_LITERAL's. -/
theorem txClass_literal {b : Byte} (h : isLiteralByte b = true) : txClass b = .txLiteral b := by
  simp only [isLiteralByte, Bool.not_eq_true', Bool.or_eq_false_iff, beq_eq_false_iff_ne] at h
  obtain ⟨hend, hesc⟩ := h
  simp [txClass, hend, hesc]

/-- Settles O39: an instruction without a length field reads back as it stands, and a data field
reads back because its length field holds its length. -/
theorem decodeOfEncodeIsIdentity : Obligations.DecodeOfEncodeIsIdentity := by
  intro i rest hwf hresponse
  cases i with
  | setmode | getmode | setdev | cancel | rddiag | rxsig | drain | slipBegin | slipByte | slipEnd
  | slipRxbyte | romSync | romFend | rxEnd | rxEsc | rxEscEnd | rxEscEsc | txEscEnd | txEscEsc =>
    rfl
  | send data =>
    change decodeHostOp (0x12#8 :: (le16 _ ++ (data ++ rest))) = _
    rw [decodeHostOp_send, withWord16_le16, withData_length16 hwf]
  | romReadreg addr =>
    change decodeHostOp (0x31#8 :: (le32 addr ++ rest)) = _
    rw [decodeHostOp_romReadreg, withWord32_le32]
  | romFbegin size off =>
    change decodeHostOp (0x32#8 :: (le32 size ++ (le32 off ++ rest))) = _
    rw [decodeHostOp_romFbegin, withWord32_le32, withWord32_le32]
  | romFdata seq data =>
    change decodeHostOp (0x33#8 :: (le32 seq ++ (le16 _ ++ (data ++ rest)))) = _
    rw [decodeHostOp_romFdata, withWord32_le32, withWord16_le16, withData_length16 hwf]
  | romParse frame =>
    change decodeHostOp (0x35#8 :: _ :: (frame ++ rest)) = _
    rw [decodeHostOp_romParse, withByte_cons, withData_length8 hwf]
  | flashBegin chk payload => exact decodeRequest_requestPacket (opcode := 0x02#8) hwf rfl rest
  | flashData chk payload => exact decodeRequest_requestPacket (opcode := 0x03#8) hwf rfl rest
  | flashEnd chk payload => exact decodeRequest_requestPacket (opcode := 0x04#8) hwf rfl rest
  | sync chk payload => exact decodeRequest_requestPacket (opcode := 0x08#8) hwf rfl rest
  | writeReg chk payload => exact decodeRequest_requestPacket (opcode := 0x09#8) hwf rfl rest
  | readReg chk payload => exact decodeRequest_requestPacket (opcode := 0x0A#8) hwf rfl rest
  | response bytes =>
    cases hresponse rfl
    rw [List.append_nil]
    rfl
  | rxOther b =>
    change Except.ok (rxClass b, rest) = _
    rw [rxClass_other hwf]
  | txLiteral b =>
    change Except.ok (txClass b, rest) = _
    rw [txClass_literal hwf]

/-! ### Encoding what was decoded -/

/-- The instruction a decoder answers, if it answers one, is of the format, and the bytes it was
read from are its encoding and the bytes left. -/
def readFrom (fmt : Format) (bytes : List Byte) (d : Decoded) : Prop :=
  ∀ i rest, d = .ok (i, rest) → i.format = fmt ∧ encode i ++ rest = bytes

section ReadFrom

variable {fmt : Format} {bytes : List Byte}

theorem readFrom_error (e : DecodeError) : readFrom fmt bytes (.error e) :=
  fun _ _ h => nomatch h

theorem readFrom_ok {i : Instr} {rest : List Byte} (hformat : i.format = fmt)
    (hbytes : encode i ++ rest = bytes) : readFrom fmt bytes (.ok (i, rest)) := by
  rintro _ _ ⟨⟩
  exact ⟨hformat, hbytes⟩

/-- One test of an op code or direction byte. -/
theorem readFrom_ite {c : Prop} [Decidable c] {d d' : Decoded} (hthen : c → readFrom fmt bytes d)
    (helse : readFrom fmt bytes d') : readFrom fmt bytes (if c then d else d') := by
  split
  · next h => exact hthen h
  · exact helse

theorem readFrom_withByte {bs : List Byte} {k : Byte → List Byte → Decoded}
    (hk : ∀ b rest, bs = b :: rest → readFrom fmt bytes (k b rest)) :
    readFrom fmt bytes (withByte bs k) := by
  intro i t h
  obtain ⟨b, rest, hbs, hb⟩ := withByte_ok h
  exact hk b rest hbs i t hb

theorem readFrom_withWord16 {bs : List Byte} {k : Word16 → List Byte → Decoded}
    (hk : ∀ v rest, bs = le16 v ++ rest → readFrom fmt bytes (k v rest)) :
    readFrom fmt bytes (withWord16 bs k) := by
  intro i t h
  obtain ⟨v, rest, hbs, hv⟩ := withWord16_ok h
  exact hk v rest hbs i t hv

theorem readFrom_withWord32 {bs : List Byte} {k : Word32 → List Byte → Decoded}
    (hk : ∀ v rest, bs = le32 v ++ rest → readFrom fmt bytes (k v rest)) :
    readFrom fmt bytes (withWord32 bs k) := by
  intro i t h
  obtain ⟨v, rest, hbs, hv⟩ := withWord32_ok h
  exact hk v rest hbs i t hv

/-- The length field before a data field is the one its encoding writes: it holds the length of the
data. -/
theorem readFrom_withData {w : Nat} {n : BitVec w} {bs : List Byte}
    {k : List Byte → List Byte → Decoded}
    (hk : ∀ data rest, bs = data ++ rest → n = BitVec.ofNat w data.length →
      readFrom fmt bytes (k data rest)) :
    readFrom fmt bytes (withData n.toNat bs k) := by
  intro i t h
  obtain ⟨data, rest, hbs, hlen, hdata⟩ := withData_ok h
  exact hk data rest hbs (by rw [hlen, BitVec.ofNat_toNat, BitVec.setWidth_eq]) i t hdata

end ReadFrom

theorem decodeHostOp_readFrom (bs : List Byte) : readFrom .hostOp bs (decodeHostOp bs) := by
  cases bs with
  | nil => exact readFrom_error _
  | cons op operands =>
    refine readFrom_ite ?setmode <| readFrom_ite ?getmode <| readFrom_ite ?setdev <|
      readFrom_ite ?cancel <| readFrom_ite ?rddiag <| readFrom_ite ?rxsig <|
      readFrom_ite ?drain <| readFrom_ite ?send <| readFrom_ite ?slipBegin <|
      readFrom_ite ?slipByte <| readFrom_ite ?slipEnd <| readFrom_ite ?slipRxbyte <|
      readFrom_ite ?romSync <| readFrom_ite ?romReadreg <| readFrom_ite ?romFbegin <|
      readFrom_ite ?romFdata <| readFrom_ite ?romFend <| readFrom_ite ?romParse <|
      readFrom_error _
    all_goals rintro rfl
    case getmode | cancel | rddiag | drain | slipBegin | slipEnd | romSync | romFend =>
      exact readFrom_ok rfl rfl
    case setmode | setdev | rxsig | slipByte | slipRxbyte =>
      refine readFrom_withByte ?_
      rintro b rest rfl
      exact readFrom_ok rfl rfl
    case send =>
      refine readFrom_withWord16 ?_
      rintro n _ rfl
      refine readFrom_withData ?_
      rintro data rest rfl rfl
      exact readFrom_ok rfl (by simp [encode])
    case romReadreg =>
      refine readFrom_withWord32 ?_
      rintro addr rest rfl
      exact readFrom_ok rfl rfl
    case romFbegin =>
      refine readFrom_withWord32 ?_
      rintro size _ rfl
      refine readFrom_withWord32 ?_
      rintro off rest rfl
      exact readFrom_ok rfl rfl
    case romFdata =>
      refine readFrom_withWord32 ?_
      rintro seq _ rfl
      refine readFrom_withWord16 ?_
      rintro n _ rfl
      refine readFrom_withData ?_
      rintro data rest rfl rfl
      exact readFrom_ok rfl (by simp [encode])
    case romParse =>
      refine readFrom_withByte ?_
      rintro n _ rfl
      refine readFrom_withData ?_
      rintro frame rest rfl rfl
      exact readFrom_ok rfl (by simp [encode])

/-- R95: a request is the packet of its opcode. -/
theorem requestOf_encode {opcode : Byte} {chk : Word32} {payload : List Byte} {i : Instr}
    (h : requestOf opcode chk payload = some i) :
    i.format = .romRequest ∧ encode i = requestPacket opcode payload chk := by
  unfold requestOf at h
  split_ifs at h with hop hop hop hop hop hop <;> cases h <;> exact ⟨rfl, by rw [hop]; rfl⟩

theorem decodeRequest_readFrom (bs : List Byte) : readFrom .romRequest bs (decodeRequest bs) := by
  cases bs with
  | nil => exact readFrom_error _
  | cons dir fields =>
    refine readFrom_ite ?_ (readFrom_error _)
    rintro rfl
    refine readFrom_withByte ?_
    rintro opcode _ rfl
    refine readFrom_withWord16 ?_
    rintro n _ rfl
    refine readFrom_withWord32 ?_
    rintro chk _ rfl
    refine readFrom_withData ?_
    rintro payload rest rfl rfl
    cases hrequest : requestOf opcode chk payload with
    | none => exact readFrom_error _
    | some i =>
      obtain ⟨hformat, hencode⟩ := requestOf_encode hrequest
      exact readFrom_ok hformat (by simp [hencode, requestPacket])

theorem decodeResponse_readFrom (bs : List Byte) :
    readFrom .romResponse bs (decodeResponse bs) := by
  cases bs with
  | nil => exact readFrom_error _
  | cons dir packet =>
    refine readFrom_ite ?_ (readFrom_error _)
    rintro rfl
    exact readFrom_ok rfl (List.append_nil _)

/-- R91: the class of a received byte keeps the byte. -/
theorem rxClass_encode (b : Byte) : (rxClass b).format = .rxByte ∧ encode (rxClass b) = [b] := by
  unfold rxClass
  split_ifs with h h h h
  case neg => exact ⟨rfl, rfl⟩
  all_goals exact ⟨rfl, h ▸ rfl⟩

/-- R181: the row of a byte that is sent keeps the byte. -/
theorem txClass_encode (b : Byte) : (txClass b).format = .txByte ∧ encode (txClass b) = [b] := by
  unfold txClass
  split_ifs with h h
  case neg => exact ⟨rfl, rfl⟩
  all_goals exact ⟨rfl, h ▸ rfl⟩

/-- Whatever decodes was read from its own encoding, in every format. -/
theorem decode_readFrom (fmt : Format) (bs : List Byte) : readFrom fmt bs (decode fmt bs) := by
  cases fmt with
  | hostOp => exact decodeHostOp_readFrom bs
  | romRequest => exact decodeRequest_readFrom bs
  | romResponse => exact decodeResponse_readFrom bs
  | rxByte =>
    cases bs with
    | nil => exact readFrom_error _
    | cons b rest =>
      obtain ⟨hformat, hencode⟩ := rxClass_encode b
      exact readFrom_ok hformat (by rw [hencode]; rfl)
  | txByte =>
    cases bs with
    | nil => exact readFrom_error _
    | cons b rest =>
      obtain ⟨hformat, hencode⟩ := txClass_encode b
      exact readFrom_ok hformat (by rw [hencode]; rfl)

/-- Settles O40: each field that was read is the field its encoding writes, and what decodes has an
encoding. -/
theorem encodeOfDecodeIsIdentity : Obligations.EncodeOfDecodeIsIdentity := by
  intro fmt bytes rest i h
  obtain ⟨hformat, hbytes⟩ := decode_readFrom fmt bytes i rest h
  exact ⟨hformat, decode_wellFormed h, hbytes⟩

/-- Settles O38: each word is the encoding of its instruction, with the bytes after it. -/
theorem sampleWordsDecode : Obligations.SampleWordsDecode :=
  ⟨decodeOfEncodeIsIdentity (.romReadreg 0x0000C0DB#32) [] rfl (by decide),
   decodeOfEncodeIsIdentity (.romFdata 2#32 [0x11#8, 0x22#8, 0x33#8]) [] rfl (by decide),
   decodeOfEncodeIsIdentity (.send [0x41#8]) [0x11#8] rfl (by decide),
   decodeOfEncodeIsIdentity (.rxsig 2#8) [] rfl (by decide),
   decodeOfEncodeIsIdentity (.readReg 0#32 [0x3F#8, 0xF0#8, 0x00#8, 0x50#8]) [] rfl (by decide),
   decodeOfEncodeIsIdentity (.response [0x08#8, 0x00#8]) [] rfl fun _ => rfl,
   decodeOfEncodeIsIdentity .rxEscEnd [] rfl (by decide),
   decodeOfEncodeIsIdentity .txEscEsc [] rfl (by decide)⟩

end Sys2Proof
end

section
/-! The wire frame of a packet (spec/30_encoding.md R90, R98, R99, spec/42_slip.md R181): its
length, its delimiters and what stands between them. -/

namespace Sys2Proof.Machine

/-- R181: an escaped byte goes out as two, every other as one. -/
theorem esc_length (b : Byte) :
    (esc b).length = 1 + if (b == 0xC0#8 || b == 0xDB#8) = true then 1 else 0 := by
  rcases esc_cases b with ⟨rfl, e⟩ | ⟨rfl, e⟩ | ⟨hend, hesc, e⟩ <;> rw [e]
  · rfl
  · rfl
  · rw [slipEnd] at hend
    rw [slipEsc] at hesc
    simp [hend, hesc]

theorem escAll_length (p : List Byte) :
    (escAll p).length = p.length + p.countP fun b => b == 0xC0#8 || b == 0xDB#8 := by
  induction p with
  | nil => rfl
  | cons b p ih =>
    rw [escAll_cons, List.length_append, esc_length, ih, List.countP_cons, List.length_cons]
    omega

/-- R181: no escape contains the delimiter. -/
theorem slipEnd_notMem_esc (b : Byte) : slipEnd ∉ esc b := by
  rcases esc_cases b with ⟨-, e⟩ | ⟨-, e⟩ | ⟨hend, -, e⟩ <;> rw [e]
  · decide
  · decide
  · simpa using hend.symm

theorem slipEnd_notMem_escAll (p : List Byte) : slipEnd ∉ escAll p := by
  intro hmem
  obtain ⟨b, -, hb⟩ := List.mem_flatMap.mp hmem
  exact slipEnd_notMem_esc b hb

/-- R90: between the delimiters of a wire frame stand the escaped bytes of its packet. -/
theorem slipFrame_inner (p : List Byte) : ((slipFrame p).drop 1).dropLast = escAll p :=
  List.dropLast_concat

/-- Settles O50: the escapes are counted byte by byte, and none contains the delimiter. -/
theorem wireFrameShape : Obligations.WireFrameShape := by
  intro p
  refine ⟨?length, rfl, List.getLast?_concat, ?inner⟩
  case length =>
    simp only [slipFrame, List.length_append, List.length_singleton, escAll_length]
    omega
  case inner =>
    rw [slipFrame_inner]
    exact slipEnd_notMem_escAll p

end Sys2Proof.Machine
end

section
/-! The pseudo-operations of spec/30_encoding.md R104, run operation by operation. -/

namespace Sys2Proof.Machine

/-! ### Operations in issue order -/

section RunOps

variable {s t : State} {i : Instr}

/-- R104: after OK the next operation is issued. -/
theorem runOps_cons_of_ok (h : exec i s = .next t) (hok : t.resultOk = true) (ops : List Instr) :
    runOps (i :: ops) s = runOps ops t := by
  simp only [runOps, h, hok, reduceIte]

/-- R104: the first result other than OK stops the sequence. -/
theorem runOps_cons_of_error (h : exec i s = .next t) (herr : t.resultOk = false)
    (ops : List Instr) : runOps (i :: ops) s = .next t := by
  simp only [runOps, h, herr, Bool.false_eq_true, reduceIte]

theorem runOps_singleton (i : Instr) (s : State) : runOps [i] s = exec i s := by
  rw [runOps]
  split
  · next t h => rw [h, runOps, ite_self]
  · next r h => exact h.symm
  · next r h => exact h.symm

end RunOps

/-! ### SLIP_FRAME -/

section SlipFrame

variable {s : State}

/-- The block with these bytes in the open frame, after an operation of the frame that succeeded. -/
def State.frameHolding (wire : List Byte) (s : State) : State :=
  { s with txOpen := true, txPend := wire }.ret .ok 0

/-- R182: SLIP_BEGIN opens a frame with its delimiter. -/
theorem exec_slipBegin_closed (hmode : s.mode = .flashing) (hclosed : s.txOpen = false) :
    exec .slipBegin s = .next (s.frameHolding [slipEnd]) := by
  simp [execSlipBegin, hmode, hclosed, State.frameHolding]

/-- R183: SLIP_BYTE appends the escape of its byte. -/
theorem exec_slipByte_frameHolding (b : Byte) (wire : List Byte) :
    exec (.slipByte b) (s.frameHolding wire) = .next (s.frameHolding (wire ++ esc b)) := rfl

theorem runOps_slipBytes (p wire : List Byte) (ops : List Instr) :
    runOps (p.map .slipByte ++ ops) (s.frameHolding wire) =
      runOps ops (s.frameHolding (wire ++ escAll p)) := by
  induction p generalizing wire with
  | nil => simp
  | cons b p ih =>
    rw [List.map_cons, List.cons_append,
      runOps_cons_of_ok (exec_slipByte_frameHolding b wire) rfl, ih, escAll_cons,
      List.append_assoc]

theorem State.spendDraw_setResult (s : State) (r : Option OpResult) :
    ({ s with result := r } : State).spendDraw = { s.spendDraw with result := r } := by
  unfold State.spendDraw
  dsimp only
  split <;> rfl

/-- A write does not read what the last operation returned. -/
theorem State.sendWire_setResult (s : State) (r : Option OpResult) (wire : List Byte) :
    ({ s with result := r } : State).sendWire wire = s.sendWire wire := by
  unfold State.sendWire
  rw [State.uartWrite_eq, State.uartWrite_eq, State.spendDraw_setResult]
  split <;> rfl

/-- R184: SLIP_END closes the frame and writes it with its delimiter. -/
theorem exec_slipEnd_frameHolding (hdev : s.devPresent = true) (wire : List Byte) :
    exec .slipEnd (s.frameHolding wire) = .next (s.closeFrame.sendWire (wire ++ [slipEnd])) := by
  have hexec : exec .slipEnd (s.frameHolding wire) =
      .next ((s.frameHolding wire).closeFrame.sendWire (wire ++ [slipEnd])) := by
    simp [execSlipEnd, State.frameHolding, hdev]
  rw [hexec]
  exact congrArg _ (s.closeFrame.sendWire_setResult (some ⟨.ok, 0⟩) _)

/-- R104, R90: SLIP_FRAME is one UART write of the wire frame, which leaves no frame open. -/
theorem runPseudo_slipFrame (hdev : s.devPresent = true) (hmode : s.mode = .flashing)
    (hclosed : s.txOpen = false) (p : List Byte) :
    runPseudo (.slipFrame p) s = .next (s.closeFrame.sendWire (slipFrame p)) := by
  calc runPseudo (.slipFrame p) s
    _ = runOps (.slipBegin :: (p.map .slipByte ++ [.slipEnd])) s := rfl
    _ = runOps (p.map .slipByte ++ [.slipEnd]) (s.frameHolding [slipEnd]) :=
        runOps_cons_of_ok (exec_slipBegin_closed hmode hclosed) rfl _
    _ = runOps [.slipEnd] (s.frameHolding ([slipEnd] ++ escAll p)) := runOps_slipBytes p _ _
    _ = exec .slipEnd (s.frameHolding ([slipEnd] ++ escAll p)) := runOps_singleton _ _
    _ = .next (s.closeFrame.sendWire (slipFrame p)) := exec_slipEnd_frameHolding hdev _

theorem State.closeFrame_of_closed (hclosed : s.txOpen = false) :
    s.closeFrame = { s with txPend := [] } := by
  rw [State.closeFrame, ← hclosed]

end SlipFrame

/-- Settles O52: SLIP_FRAME is one write of the wire frame, which the UART accepts. -/
theorem slipFramePseudoSendsFrame : Obligations.SlipFramePseudoSendsFrame := by
  intro s p hdev hmode hclosed haccepts
  rw [runPseudo_slipFrame hdev hmode hclosed, State.closeFrame_of_closed hclosed]
  exact congrArg _ (State.sendWire_accepted { s with txPend := [] } haccepts)

/-! ### ENTER_FLASHING and LEAVE_FLASHING -/

section Modes

variable {s : State}

/-- R160: Running is entered with the idle interrupt armed, and from Uninitialized at LAST_POS 0. -/
theorem State.enterMode_running (s : State) :
    s.enterMode .running = { s with
      mode := .running, idleIrqEn := true,
      lastPos := if s.mode = .uninitialized then 0 else s.lastPos } := by
  unfold State.enterMode
  cases s.mode <;> rfl

/-- R160: the deframer is reset on the way from Running to Flashing. -/
theorem State.enterMode_flashing_of_running (h : s.mode = .running) :
    s.enterMode .flashing = { s with
      mode := .flashing, idleIrqEn := false,
      rxfState := .idle, rxfLen := 0, rxfTrunc := false } := by
  simp [State.enterMode, h, State.deframerReset, Mode.armsIdleIrq]

/-- R160: in Flashing, SETMODE 2 only rewrites IDLE_IRQ_EN. -/
theorem State.enterMode_flashing_of_flashing (h : s.mode = .flashing) :
    s.enterMode .flashing = { s with idleIrqEn := false } := by
  simp [State.enterMode, h, Mode.armsIdleIrq]

/-- R160, R161: SETMODE 1, legal from every mode, enters Running unless a frame is open or a request
awaits. -/
theorem exec_setmode_running_busy (hbusy : s.txOpen = true ∨ s.pendAwait = true) :
    exec (.setmode 1#8) s = .next (s.raise .busy) := by
  have hlegal : legalTransition s.mode .running = true := (legalTransition_iff _ _).mpr (.inl rfl)
  simp [execSetmode, modeOperand, hlegal, hbusy]

theorem exec_setmode_running_free (hclosed : s.txOpen = false) (hidle : s.pendAwait = false) :
    exec (.setmode 1#8) s = .next ((s.enterMode .running).ret .ok 0) := by
  have hlegal : legalTransition s.mode .running = true := (legalTransition_iff _ _).mpr (.inl rfl)
  simp [execSetmode, modeOperand, hlegal, hclosed, hidle]

/-- R160, R161: SETMODE 2, legal from every mode but Uninitialized, enters Flashing unless a frame
is open or a request awaits. -/
theorem exec_setmode_flashing_busy (hmode : s.mode ≠ .uninitialized)
    (hbusy : s.txOpen = true ∨ s.pendAwait = true) :
    exec (.setmode 2#8) s = .next (s.raise .busy) := by
  have hlegal : legalTransition s.mode .flashing = true :=
    (legalTransition_iff _ _).mpr (.inr ⟨rfl, hmode⟩)
  simp [execSetmode, modeOperand, hlegal, hbusy]

theorem exec_setmode_flashing_free (hmode : s.mode ≠ .uninitialized) (hclosed : s.txOpen = false)
    (hidle : s.pendAwait = false) :
    exec (.setmode 2#8) s = .next ((s.enterMode .flashing).ret .ok 0) := by
  have hlegal : legalTransition s.mode .flashing = true :=
    (legalTransition_iff _ _).mpr (.inr ⟨rfl, hmode⟩)
  simp [execSetmode, modeOperand, hlegal, hclosed, hidle]

/-- R163. -/
theorem exec_setdev_present (s : State) :
    exec (.setdev 1#8) s = .next ({ s with devPresent := true }.ret .ok 0) := rfl

/-- R164: CANCEL with nothing awaiting. -/
theorem exec_cancel_idle (h : s.pendAwait = false) :
    exec .cancel s = .next (s.ret .nothingPending 0) := by
  simp [execCancel, h]

/-- R164: CANCEL times the awaited request out. -/
theorem exec_cancel_awaiting (h : s.pendAwait = true) :
    exec .cancel s = .next (({ s with
      pendAwait := false,
      cplLog := s.cplLog ++ [.item ⟨.timeout, s.pendOp, 0#8, 0#32⟩] } : State).ret .ok 0) := by
  rw [exec_cancel_eq, execCancel, h]
  rfl

/-- R104: with a transport, ENTER_FLASHING is SETMODE 2 alone. -/
theorem runPseudo_enterFlashing (hmode : s.mode ≠ .uninitialized) :
    runPseudo .enterFlashing s = exec (.setmode 2#8) s := by
  rw [runPseudo, PseudoOp.expand, if_neg hmode]
  exact runOps_singleton _ _

/-- R104: from Uninitialized, ENTER_FLASHING sets the device and goes through Running. -/
theorem runPseudo_enterFlashing_uninitialized (hmode : s.mode = .uninitialized) :
    runPseudo .enterFlashing s =
      runOps [.setmode 1#8, .setmode 2#8] ({ s with devPresent := true }.ret .ok 0) := by
  rw [runPseudo, PseudoOp.expand, if_pos hmode]
  exact runOps_cons_of_ok (exec_setdev_present s) rfl _

/-- R104: LEAVE_FLASHING with a request awaiting times it out and goes on to SETMODE 1. -/
theorem runPseudo_leaveFlashing (hawait : s.pendAwait = true) :
    runPseudo .leaveFlashing s =
      exec (.setmode 1#8) (({ s with
        pendAwait := false,
        cplLog := s.cplLog ++ [.item ⟨.timeout, s.pendOp, 0#8, 0#32⟩] } : State).ret .ok 0) :=
  (runOps_cons_of_ok (exec_cancel_awaiting hawait) rfl [.setmode 1#8]).trans
    (runOps_singleton _ _)

/-- R160: SETMODE 1 and SETMODE 2 in a row lead from Uninitialized to Flashing, at LAST_POS 0 and
with the deframer reset. -/
theorem runOps_setmode_twice (hmode : s.mode = .uninitialized) (hclosed : s.txOpen = false)
    (hidle : s.pendAwait = false) :
    runOps [.setmode 1#8, .setmode 2#8] s = .next ({ s with
      mode := .flashing, idleIrqEn := false, lastPos := 0,
      rxfState := .idle, rxfLen := 0, rxfTrunc := false }.ret .ok 0) := by
  have hrunning := exec_setmode_running_free hclosed hidle
  rw [State.enterMode_running, if_pos hmode] at hrunning
  rw [runOps_cons_of_ok hrunning rfl, runOps_singleton, exec_setmode_flashing_free (by simp),
    State.enterMode_flashing_of_running rfl]
  · rfl
  · exact hclosed
  · exact hidle

end Modes

/-- Settles O53: SETMODE is the one operation that can stop ENTER_FLASHING; CANCEL and SETMODE are
those that can stop LEAVE_FLASHING. -/
theorem flashingPseudoOpsSwitchMode : Obligations.FlashingPseudoOpsSwitchMode := by
  intro s
  refine ⟨fun hbusy => ⟨fun hmode => ?enterBusyUninitialized, fun hmode => ?enterBusy⟩,
    fun hclosed hidle => ⟨fun hmode => ?enterUninitialized, fun hmode => ?enterRunning,
      fun hmode => ?enterFlashing⟩,
    fun hidle => ?leaveIdle, fun hawait hopen => ?leaveBusy, fun hawait hclosed => ?leave⟩
  case enterBusyUninitialized =>
    rw [runPseudo_enterFlashing_uninitialized hmode]
    refine runOps_cons_of_error (exec_setmode_running_busy ?_) rfl _
    exact hbusy
  case enterBusy =>
    rw [runPseudo_enterFlashing hmode]
    exact exec_setmode_flashing_busy hmode hbusy
  case enterUninitialized =>
    rw [runPseudo_enterFlashing_uninitialized hmode]
    exact runOps_setmode_twice (s := { s with devPresent := true }.ret .ok 0) hmode hclosed hidle
  case enterRunning =>
    have hne : s.mode ≠ .uninitialized := by simp [hmode]
    rw [runPseudo_enterFlashing hne, exec_setmode_flashing_free hne hclosed hidle,
      State.enterMode_flashing_of_running hmode]
    rfl
  case enterFlashing =>
    have hne : s.mode ≠ .uninitialized := by simp [hmode]
    rw [runPseudo_enterFlashing hne, exec_setmode_flashing_free hne hclosed hidle,
      State.enterMode_flashing_of_flashing hmode]
    rfl
  case leaveIdle => exact runOps_cons_of_error (exec_cancel_idle hidle) rfl [.setmode 1#8]
  case leaveBusy =>
    rw [runPseudo_leaveFlashing hawait, exec_setmode_running_busy]
    · rfl
    · exact .inl hopen
  case leave =>
    rw [runPseudo_leaveFlashing hawait, exec_setmode_running_free, State.enterMode_running]
    · rfl
    · exact hclosed
    · rfl

end Sys2Proof.Machine
end

section
/-! Request packets run as the operations that build them (spec/30_encoding.md R92, R95, R97,
spec/43_rom_codec.md R221; log 6). -/

namespace Sys2Proof.Machine

/-! ### What a payload holds at the places its packet is read at (R97) -/

section Payloads

variable (cfg : Params)

@[simp] theorem wordBytes_length (v : Word32) : (wordBytes cfg v).length = 4 :=
  payloadWord_length _ v

theorem payloadWordAt_wordBytes_append (v : Word32) (rest : List Byte) :
    payloadWordAt cfg.wordOrder (wordBytes cfg v ++ rest) 0 = v :=
  payloadWordAt_head _ v rest

/-- A word laid behind `n` bytes reads back there. -/
theorem payloadWordAt_behind {front : List Byte} {n : Nat} (h : front.length = n) (v : Word32)
    (rest : List Byte) :
    payloadWordAt cfg.wordOrder (front ++ (wordBytes cfg v ++ rest)) n = v := by
  rw [← h, payloadWordAt_append, payloadWordAt_wordBytes_append]

theorem payloadWordAt_wordBytes (v : Word32) :
    payloadWordAt cfg.wordOrder (wordBytes cfg v) 0 = v := by
  simpa using payloadWordAt_wordBytes_append cfg v []

/-- R97: FLASH_BEGIN's size stands in word 0 of the payload. -/
theorem flashBeginPayload_size (size off : Word32) :
    payloadWordAt cfg.wordOrder (flashBeginPayload cfg size off) 0 = size := by
  rw [flashBeginPayload, List.append_assoc, List.append_assoc, payloadWordAt_wordBytes_append]

/-- R97: FLASH_BEGIN's offset stands in word 3 of the payload. -/
theorem flashBeginPayload_off (size off : Word32) :
    payloadWordAt cfg.wordOrder (flashBeginPayload cfg size off) 12 = off := by
  rw [flashBeginPayload, ← List.append_nil (wordBytes cfg off)]
  exact payloadWordAt_behind cfg (by simp) off []

/-- R97: FLASH_DATA's sequence number stands in word 1 of the payload. -/
theorem flashDataPayload_seq (seq : Word32) (data : List Byte) :
    payloadWordAt cfg.wordOrder (flashDataPayload cfg seq data) 4 = seq := by
  rw [flashDataPayload, List.append_assoc, List.append_assoc]
  exact payloadWordAt_behind cfg (wordBytes_length cfg _) seq _

/-- R97: FLASH_DATA's block stands after the two words and the padding. -/
theorem flashDataBlock_flashDataPayload (seq : Word32) (data : List Byte) :
    flashDataBlock cfg (flashDataPayload cfg seq data) = data := by
  have hfront : (wordBytes cfg (BitVec.ofNat 32 data.length) ++ wordBytes cfg seq ++
      List.replicate cfg.dataPad 0x00#8).length = 8 + cfg.dataPad := by
    simp only [List.length_append, wordBytes_length, List.length_replicate]
  rw [flashDataBlock, flashDataPayload, ← hfront, List.drop_left]

end Payloads

/-! ### The legal fields are the built ones (R97) -/

/-- The requests the build operations make, with the fields of each (R97, R223 to R227). -/
inductive BuiltRequest (cfg : Params) : Byte → List Byte → Word32 → Prop
  | sync : BuiltRequest cfg 0x08#8 (syncPayload cfg) 0#32
  | readReg (addr : Word32) : BuiltRequest cfg 0x0A#8 (readRegPayload cfg addr) 0#32
  | flashBegin (size off : Word32) :
      BuiltRequest cfg 0x02#8 (flashBeginPayload cfg size off) 0#32
  | flashData (seq : Word32) (data : List Byte) (block : legalBlock cfg data = true) :
      BuiltRequest cfg 0x03#8 (flashDataPayload cfg seq data) (fold cfg.chkSeed data)
  | flashEnd : BuiltRequest cfg 0x04#8 (flashEndPayload cfg) 0#32

section Built

variable {cfg : Params} {opcode : Byte} {payload : List Byte} {chk : Word32}

theorem buildRequest_romFdata (seq : Word32) {data : List Byte} (h : legalBlock cfg data = true) :
    buildRequest cfg (.romFdata seq data) =
      some (0x03#8, flashDataPayload cfg seq data, fold cfg.chkSeed data) :=
  if_pos (of_decide_eq_true h)

theorem BuiltRequest.exists_buildRequest (h : BuiltRequest cfg opcode payload chk) :
    ∃ i, buildRequest cfg i = some (opcode, payload, chk) := by
  cases h with
  | sync => exact ⟨.romSync, rfl⟩
  | readReg addr => exact ⟨.romReadreg addr, rfl⟩
  | flashBegin size off => exact ⟨.romFbegin size off, rfl⟩
  | flashData seq data block => exact ⟨.romFdata seq data, buildRequest_romFdata seq block⟩
  | flashEnd => exact ⟨.romFend, rfl⟩

/-- A build operation makes one of these requests, and runs the common build sequence on it
(R221). -/
theorem buildRequest_some {s : State} {i : Instr}
    (h : buildRequest s.cfg i = some (opcode, payload, chk)) :
    BuiltRequest s.cfg opcode payload chk ∧
      exec i s = .next (s.romBuild opcode payload chk) := by
  cases i with
  | romSync => cases h; exact ⟨.sync, rfl⟩
  | romReadreg addr => cases h; exact ⟨.readReg addr, rfl⟩
  | romFbegin size off => cases h; exact ⟨.flashBegin size off, rfl⟩
  | romFdata seq data =>
    cases hblock : legalBlock s.cfg data with
    | true =>
      rw [buildRequest_romFdata seq hblock] at h
      cases h
      exact ⟨.flashData seq data hblock, by simp [execRomFdata, hblock]⟩
    | false =>
      rw [buildRequest, if_neg (of_decide_eq_false hblock)] at h
      cases h
  | romFend => cases h; exact ⟨.flashEnd, rfl⟩
  | _ => cases h

theorem legalSync_iff :
    legalSync cfg chk payload = true ↔ BuiltRequest cfg 0x08#8 payload chk := by
  rw [legalSync, decide_eq_true_iff]
  constructor
  · rintro ⟨rfl, rfl⟩
    exact .sync
  · rintro ⟨⟩
    exact ⟨rfl, rfl⟩

theorem legalReadReg_iff :
    legalReadReg cfg chk payload = true ↔ BuiltRequest cfg 0x0A#8 payload chk := by
  rw [legalReadReg, decide_eq_true_iff]
  constructor
  · rintro ⟨rfl, e⟩
    exact e ▸ .readReg _
  · rintro ⟨⟩
    exact ⟨rfl, by rw [readRegPayload, payloadWordAt_wordBytes, readRegPayload]⟩

theorem legalFlashBegin_iff :
    legalFlashBegin cfg chk payload = true ↔ BuiltRequest cfg 0x02#8 payload chk := by
  rw [legalFlashBegin, decide_eq_true_iff]
  constructor
  · rintro ⟨rfl, e⟩
    rw [e]
    exact .flashBegin _ _
  · rintro ⟨⟩
    exact ⟨rfl, by rw [flashBeginPayload_size, flashBeginPayload_off]⟩

theorem legalFlashData_iff :
    legalFlashData cfg chk payload = true ↔ BuiltRequest cfg 0x03#8 payload chk := by
  rw [legalFlashData, Bool.and_eq_true, decide_eq_true_iff]
  constructor
  · rintro ⟨hblock, rfl, e⟩
    have hbuilt := BuiltRequest.flashData (payloadWordAt cfg.wordOrder payload 4) _ hblock
    rwa [← e] at hbuilt
  · rintro ⟨⟩
    next seq data hblock =>
    rw [flashDataBlock_flashDataPayload, flashDataPayload_seq]
    exact ⟨hblock, rfl, rfl⟩

theorem legalFlashEnd_iff :
    legalFlashEnd cfg chk payload = true ↔ BuiltRequest cfg 0x04#8 payload chk := by
  rw [legalFlashEnd, decide_eq_true_iff]
  constructor
  · rintro ⟨rfl, rfl⟩
    exact .flashEnd
  · rintro ⟨⟩
    exact ⟨rfl, rfl⟩

end Built

/-! ### Running a request packet -/

section Requests

variable {s : State} {opcode : Byte} {payload : List Byte} {chk : Word32} {r : Instr}

/-- Log 6: a request packet but WRITE_REG's goes through the common build sequence if its fields are
built by some operation, and is BAD_ARG otherwise. -/
theorem exec_request (h : requestOf opcode chk payload = some r) (hwrite : opcode ≠ 0x09#8) :
    ∃ legal, (legal = true ↔ BuiltRequest s.cfg opcode payload chk) ∧
      exec r s = .next (s.sendRequest legal opcode payload chk) := by
  unfold requestOf at h
  split_ifs at h with hbegin hdata hend hsync hread <;> cases h
  · exact ⟨_, hbegin ▸ legalFlashBegin_iff, hbegin ▸ rfl⟩
  · exact ⟨_, hdata ▸ legalFlashData_iff, hdata ▸ rfl⟩
  · exact ⟨_, hend ▸ legalFlashEnd_iff, hend ▸ rfl⟩
  · exact ⟨_, hsync ▸ legalSync_iff, hsync ▸ rfl⟩
  · exact ⟨_, hread ▸ legalReadReg_iff, hread ▸ rfl⟩

theorem exec_request_built (h : requestOf opcode chk payload = some r)
    (hbuilt : BuiltRequest s.cfg opcode payload chk) :
    exec r s = .next (s.romBuild opcode payload chk) := by
  have hwrite : opcode ≠ 0x09#8 := by cases hbuilt <;> decide
  obtain ⟨legal, hlegal, hexec⟩ := exec_request h hwrite
  rw [hexec, hlegal.mpr hbuilt]
  rfl

theorem exec_request_notBuilt (h : requestOf opcode chk payload = some r)
    (hwrite : opcode ≠ 0x09#8) (hbuilt : ¬BuiltRequest s.cfg opcode payload chk) :
    exec r s = .next (s.raise .badArg) := by
  obtain ⟨legal, hlegal, hexec⟩ := exec_request h hwrite
  rw [hexec, Bool.eq_false_iff.mpr (mt hlegal.mp hbuilt)]
  rfl

end Requests

/-- Settles O30: the legal fields of a request are those some operation builds, and a legal request
runs the common build sequence, as that operation does. -/
theorem requestPacketsAreTheBuilds : Obligations.RequestPacketsAreTheBuilds := by
  intro s i opcode payload chk r
  refine ⟨fun hbuild hrequest => ?_, fun hrequest hwrite hnone => ?_⟩
  · obtain ⟨hbuilt, hexec⟩ := buildRequest_some hbuild
    rw [hexec, exec_request_built hrequest hbuilt]
  · have hnot : ¬BuiltRequest s.cfg opcode payload chk := fun hbuilt =>
      have ⟨j, hj⟩ := hbuilt.exists_buildRequest
      hnone j hj
    exact exec_request_notBuilt hrequest hwrite hnot

end Sys2Proof.Machine
end

section
/-! RXSIG and DRAIN (spec/40_byte_source.md R130, R132 to R136): the token of a wake-up, and the
range of the ring that has arrived since the last drain. -/

namespace Sys2Proof.Machine

variable {s : State}

/-! ### DRAIN -/

/-- LAST_POS and the length of the arrived range, added round the ring, give the write position. -/
theorem add_arrived_mod {l w cap : Nat} (hl : l < cap) (hw : w < cap) :
    (l + (w + cap - l) % cap) % cap = w := by
  rw [Nat.add_mod_mod, show l + (w + cap - l) = w + cap by omega, Nat.add_mod_right,
    Nat.mod_eq_of_lt hw]

/-- R136: the newly arrived bytes are the range of the ring from LAST_POS to the write position. -/
theorem State.newBytes_eq_ringRange (hl : s.lastPos < s.cfg.rxCap) :
    s.newBytes = s.rxbuf.ringRange s.cfg.rxCap s.lastPos
      ((s.drainPos + s.cfg.rxCap - s.lastPos) % s.cfg.rxCap) := by
  have hcap : 0 < s.cfg.rxCap := Nat.zero_lt_of_lt hl
  have hseg := State.segment_eq_ringRange hl
    (Nat.mod_lt (s.drainPos + s.cfg.rxCap - s.lastPos) hcap)
  rwa [add_arrived_mod hl (s.drainPos_lt hcap)] at hseg

theorem Memory.ringRange_getElem? {m : Memory} {cap l n k : Nat} (hk : k < n) :
    (m.ringRange cap l n)[k]? = some (m.read ((l + k) % cap)) := by
  simp [Memory.ringRange, hk]

/-- Just before the circular reload the count is 0 and the write position already is (R135). -/
theorem State.drainPos_of_count_zero (h0 : s.dmaRemaining = 0) : s.drainPos = 0 := by
  simp [State.drainPos, h0]

/-- Settles O9: the newly arrived bytes are a range of the ring, read off by its length and its
elements. -/
theorem newBytesAreTheArrivedRange : Obligations.NewBytesAreTheArrivedRange := by
  intro s hl _
  have hrange := State.newBytes_eq_ringRange hl
  have hlen : s.newBytes.length = (s.drainPos + s.cfg.rxCap - s.lastPos) % s.cfg.rxCap := by
    rw [hrange, Memory.ringRange_length]
  refine ⟨hlen, State.drainPos_of_count_zero, s.drainPos_lt (Nat.zero_lt_of_lt hl),
    fun k hk => ?_⟩
  rw [hrange]
  exact Memory.ringRange_getElem? (hlen ▸ hk)

/-- R134: a DRAIN without a device spends the token and nothing else. -/
theorem exec_drain_noDevice (hdev : s.devPresent = false) :
    exec .drain s = .next (s.takeToken.raise .noDevice) := by
  rw [exec_drain_eq, execDrain, if_pos hdev]

/-- R134: a DRAIN without a transport spends the token and nothing else. -/
theorem exec_drain_notConfigured (hdev : s.devPresent = true) (hmode : s.mode = .uninitialized) :
    exec .drain s = .next (s.takeToken.raise .notConfigured) := by
  simp [execDrain, hdev, hmode]

/-- DRAIN in Running does not use FRAME, so RXF_LEN need not be a length FRAME can have (R133). -/
theorem exec_drain_running (hdev : s.devPresent = true) (hmode : s.mode = .running)
    (hring : s.lastPos < s.cfg.rxCap) : exec .drain s = .next s.takeToken.drainNew := by
  simp [execDrain, hdev, hmode, State.withRing, hring]

/-- Settles O8, by the outcomes of DRAIN in each mode. -/
theorem drainSpendsTokenAndRoutesByMode : Obligations.DrainSpendsTokenAndRoutesByMode := by
  refine ⟨rfl, fun s => ⟨exec_drain_noDevice, exec_drain_notConfigured,
    fun hdev hmode hring => ?_, fun hdev hmode hring hlen => ?_⟩⟩
  · rw [exec_drain_running hdev hmode hring, s.drainNew_running hmode]
    rfl
  · rw [exec_drain_configured hdev (by simp [hmode]) hring hlen, s.drainNew_flashing hmode]
    rfl

/-! ### RXSIG -/

/-- RXSIG's operand names a source exactly if it is 0, 1 or 2 (R101, R130). -/
theorem sourceOperand_eq_none_iff (src : Byte) : sourceOperand src = none ↔ 2 < src.toNat := by
  unfold sourceOperand
  split_ifs with h0 h1 h2
  · simp [h0]
  · simp [h1]
  · simp [h2]
  · simp only [true_iff]
    bv_omega

theorem exec_rxsig_illegal {src : Byte} (h : 2 < src.toNat) :
    exec (.rxsig src) s = .next (s.raise .badArg) := by
  rw [exec_rxsig_eq, execRxsig, (sourceOperand_eq_none_iff src).mpr h]

theorem exec_rxsig_legal {src : Byte} (h : src.toNat ≤ 2) :
    exec (.rxsig src) s = .next (s.postToken.ret .ok 0) := by
  have hsome : sourceOperand src ≠ none := mt (sourceOperand_eq_none_iff src).mp (by omega)
  obtain ⟨source, hsource⟩ := Option.ne_none_iff_exists'.mp hsome
  rw [exec_rxsig_eq, execRxsig, hsource]

theorem armsIdleIrq_eq_decide (m : Mode) : m.armsIdleIrq = decide (m = .running) :=
  Bool.eq_iff_iff.mpr ((armsIdleIrq_iff m).trans decide_eq_true_iff.symm)

/-- A token joins a queue that has room (R130). -/
theorem State.postToken_of_room (h : s.nqCount < s.cfg.nqDepth) :
    s.postToken = { s with
      nqCount := s.nqCount + 1, idleIrqEn := decide (s.mode = .running) } := by
  rw [State.postToken, if_pos h, armsIdleIrq_eq_decide]

/-- A token for a full queue is coalesced with those in it (R130). -/
theorem State.postToken_of_full (h : s.cfg.nqDepth ≤ s.nqCount) :
    s.postToken = { s with idleIrqEn := decide (s.mode = .running) } := by
  rw [State.postToken, if_neg (Nat.not_lt.mpr h), armsIdleIrq_eq_decide]

/-- Settles O7, by the operand and by the room in the queue. -/
theorem rxsigPostsTokenAndRearms : Obligations.RxsigPostsTokenAndRearms := by
  intro s src
  refine ⟨rfl, exec_rxsig_illegal, fun hsrc hroom => ?_, fun hsrc hfull => ?_⟩
  · rw [exec_rxsig_legal hsrc, State.postToken_of_room hroom]
    rfl
  · rw [exec_rxsig_legal hsrc, State.postToken_of_full hfull]
    rfl

end Sys2Proof.Machine
end

section
/-! The UART write primitive and SEND (spec/40_byte_source.md R131, R137). -/

namespace Sys2Proof.Machine

variable {s : State} {wire data : List Byte}

/-! ### The write primitive -/

/-- An empty write succeeds and draws nothing (R131). -/
theorem State.sendWire_nil (s : State) : s.sendWire [] = s.ret .ok 0 := by
  simp [State.sendWire, State.uartWrite_eq, State.uartReport, WriteReport.code]

/-- What a write leaves, by what the UART reports (R131). -/
theorem State.sendWire_of_report {ok : Bool} {sent : Nat} (hne : wire ≠ [])
    (hr : s.uartReport wire.length = ⟨ok, sent⟩) :
    s.sendWire wire = { s.spendDraw with
      txLog := s.txLog ++ (wire.take sent).map .item,
      result := some ⟨WriteReport.code ⟨ok, sent⟩, sent⟩ } := by
  rw [State.sendWire, State.uartWrite_eq, if_neg hne, hr]
  rfl

/-- The environment's draw of acceptance is admitted, and sends the whole write (R131). -/
theorem State.sendWire_settled_accept (s : State) (hne : wire ≠ []) :
    ({ s with uartScript := [.accept] } : State).sendWire wire = { s with
      uartScript := [], txLog := s.txLog ++ wire.map .item, result := some ⟨.ok, wire.length⟩ } := by
  have hr : ({ s with uartScript := [.accept] } : State).uartReport wire.length =
      ⟨true, wire.length⟩ := by
    simp [State.uartReport, hne]
  rw [State.sendWire_of_report hne hr, List.take_length]
  rfl

/-- The environment's draw of a failure is admitted for every count of bytes short of the whole
write (R131). -/
theorem State.sendWire_settled_fail (s : State) {k : Nat} (hk : k < wire.length) :
    ({ s with uartScript := [.fail k] } : State).sendWire wire = { s with
      uartScript := [], txLog := s.txLog ++ (wire.take k).map .item,
      result := some ⟨.uartWriteFail, k⟩ } := by
  have hne : wire ≠ [] := List.ne_nil_of_length_pos (Nat.zero_lt_of_lt hk)
  have hr : ({ s with uartScript := [.fail k] } : State).uartReport wire.length = ⟨false, k⟩ := by
    simp [State.uartReport, hne, Nat.mod_eq_of_lt hk]
  rw [State.sendWire_of_report hne hr]
  rfl

theorem State.sentOk_of_ne_nil (s : State) (hne : wire ≠ []) :
    s.sentOk wire = { s.spendDraw with
      txLog := s.txLog ++ wire.map .item, result := some ⟨.ok, wire.length⟩ } := by
  rw [State.sentOk, if_neg hne]

/-- Settles O11: the outcomes by what the UART reports, their admission by the draw that gives
each. -/
theorem uartWriteAdmitsEveryPrefix : Obligations.UartWriteAdmitsEveryPrefix := by
  intro s wire
  refine ⟨s.sendWire_nil, fun hne => ⟨?_, ⟨.accept, s.sendWire_settled_accept hne⟩,
    fun k hk => ⟨.fail k, s.sendWire_settled_fail hk⟩⟩⟩
  by_cases haccepts : s.accepts wire
  · left
    rw [s.sendWire_accepted haccepts, s.sentOk_of_ne_nil hne]
  · right
    exact s.sendWire_failed haccepts

/-! ### SEND -/

theorem exec_send_noDevice (hdev : s.devPresent = false) :
    exec (.send data) s = .next (s.raise .noDevice) := by
  rw [exec_send_eq, execSend, if_pos hdev]

theorem exec_send_notConfigured (hdev : s.devPresent = true) (hmode : s.mode = .uninitialized) :
    exec (.send data) s = .next (s.raise .notConfigured) := by
  rw [exec_send_eq, execSend, if_neg (by simp [hdev]), if_pos hmode]

/-- A SEND would split an open SLIP frame (R137). -/
theorem exec_send_busy (hdev : s.devPresent = true) (hmode : s.mode ≠ .uninitialized)
    (hopen : s.txOpen = true) : exec (.send data) s = .next (s.raise .busy) := by
  rw [exec_send_eq, execSend, if_neg (by simp [hdev]), if_neg hmode, if_pos hopen]

/-- A SEND that passes its checks is one UART write of the bytes as they are (R137). -/
theorem exec_send_free (hdev : s.devPresent = true) (hmode : s.mode ≠ .uninitialized)
    (hclosed : s.txOpen = false) : exec (.send data) s = .next (s.sendWire data) := by
  rw [exec_send_eq, execSend, if_neg (by simp [hdev]), if_neg hmode, if_neg (by simp [hclosed])]

/-- Settles O10: the checks in their order, then the outcomes of one UART write. -/
theorem sendWritesRawBytes : Obligations.SendWritesRawBytes := by
  intro s data
  refine ⟨rfl, exec_send_noDevice, exec_send_notConfigured, exec_send_busy,
    fun hdev hmode hclosed => ?_⟩
  rw [exec_send_free hdev hmode hclosed]
  refine ⟨fun hempty => ?_, fun haccepts => ?_, fun hfails => ?_⟩
  · rw [hempty, s.sendWire_nil]
    rfl
  · rw [s.sendWire_accepted haccepts]
  · obtain ⟨k, hk, hwrite⟩ := s.sendWire_failed hfails
    exact ⟨k, hk, by rw [hwrite]⟩

end Sys2Proof.Machine
end

section
/-! Mode and control (spec/41_mode_control.md R160 to R165): the outcomes of each operation. -/

namespace Sys2Proof.Machine

variable {s : State}

/-! ### SETMODE -/

/-- R101, R160: an operand that names no mode. -/
theorem exec_setmode_illegalOperand {m : Byte} (h1 : m ≠ 1#8) (h2 : m ≠ 2#8) :
    exec (.setmode m) s = .next (s.raise .badArg) := by
  have hnone : modeOperand m = none := by rw [modeOperand, if_neg h1, if_neg h2]
  rw [exec_setmode_eq, execSetmode, hnone]

/-- R161: Flashing is not entered from Uninitialized; an open frame or an awaiting request is not
looked at. -/
theorem exec_setmode_flashing_uninitialized (hmode : s.mode = .uninitialized) :
    exec (.setmode 2#8) s = .next (s.raise .illegalTransition) := by
  have hillegal : legalTransition s.mode .flashing = false := by rw [hmode]; rfl
  simp [execSetmode, modeOperand, hillegal]

/-- Settles O1: the operand, the transition and the frame or request are checked in this order; what
passes all three enters the mode. -/
theorem setmodeFollowsTransitionTable : Obligations.SetmodeFollowsTransitionTable := by
  intro s m
  refine ⟨exec_setmode_illegalOperand, exec_setmode_flashing_uninitialized,
    fun hbusy => ⟨exec_setmode_running_busy hbusy,
      fun hmode => exec_setmode_flashing_busy hmode hbusy⟩,
    fun hclosed hidle => ⟨?running, fun hmode => ?runningToFlashing, fun hmode => ?flashing⟩⟩
  case running =>
    rw [exec_setmode_running_free hclosed hidle, State.enterMode_running]
    rfl
  case runningToFlashing =>
    rw [exec_setmode_flashing_free (by simp [hmode]) hclosed hidle,
      State.enterMode_flashing_of_running hmode]
    rfl
  case flashing =>
    rw [exec_setmode_flashing_free (by simp [hmode]) hclosed hidle,
      State.enterMode_flashing_of_flashing hmode]
    rfl

/-! ### GETMODE -/

/-- R22: the encoding tells the modes apart, and 3 encodes none. -/
theorem Mode.encoding_toNat (m : Mode) :
    m.encoding.toNat ≠ 3 ∧ (m = .uninitialized ↔ m.encoding.toNat = 0) ∧
      (m = .running ↔ m.encoding.toNat = 1) ∧ (m = .flashing ↔ m.encoding.toNat = 2) := by
  cases m <;> decide

/-- Settles O2. -/
theorem getmodeReturnsModeEncoding : Obligations.GetmodeReturnsModeEncoding :=
  ⟨rfl, contextAllows_getmode, fun s => ⟨s.mode.encoding.toNat, rfl, s.mode.encoding_toNat⟩⟩

/-! ### SETDEV -/

/-- R101, R163: an operand above 1 names no value of DEV_PRESENT. -/
theorem exec_setdev_illegal {p : Byte} (h : 1 < p.toNat) :
    exec (.setdev p) s = .next (s.raise .badArg) := by
  have h0 : p ≠ 0#8 := by bv_omega
  have h1 : p ≠ 1#8 := by bv_omega
  have hnone : presentOperand p = none := by rw [presentOperand, if_neg h0, if_neg h1]
  rw [exec_setdev_eq, execSetdev, hnone]

/-- R163. -/
theorem exec_setdev_absent (s : State) :
    exec (.setdev 0#8) s = .next ({ s with devPresent := false }.ret .ok 0) := rfl

/-- Settles O3. -/
theorem setdevWritesPresentFlagAlone : Obligations.SetdevWritesPresentFlagAlone :=
  fun s _ => ⟨rfl, exec_setdev_absent s, exec_setdev_present s, exec_setdev_illegal⟩

/-! ### CANCEL -/

/-- Settles O4. -/
theorem cancelTimesOutPendingRequest : Obligations.CancelTimesOutPendingRequest :=
  ⟨rfl, fun _ => ⟨exec_cancel_awaiting, exec_cancel_idle⟩⟩

/-! ### RDDIAG -/

/-- R34: the bits of a DIAG read above bit 3 are 0. -/
theorem State.diagRead_toNat (s : State) : s.diagRead.toNat = s.diag.toNat :=
  BitVec.toNat_setWidth_of_le (by decide)

/-- R165. -/
theorem exec_rddiag (s : State) :
    exec .rddiag s = .next { s with diag := 0#4, result := some ⟨.ok, s.diag.toNat⟩ } := by
  rw [exec_rddiag_eq, execRddiag, s.diagRead_toNat]
  rfl

/-- Settles O5: the second RDDIAG reads the DIAG that the first one left, 0. -/
theorem rddiagReadsThenClears : Obligations.RddiagReadsThenClears :=
  ⟨rfl, fun s => ⟨_, exec_rddiag s, rfl, exec_rddiag _⟩⟩

end Sys2Proof.Machine
end

section
/-! Bytes that no decoder takes: words that end early, and packets and operations with a byte that
names no row (spec/30_encoding.md R92, R95, R96, R100 to R102). -/

namespace Sys2Proof

/-! ### Words that end early -/

/-- The bytes are a beginning of the whole, and stop before its end. -/
def properPrefix (bs whole : List Byte) : Prop := bs <+: whole ∧ bs ≠ whole

theorem not_properPrefix_nil (bs : List Byte) : ¬ properPrefix bs [] :=
  fun ⟨hprefix, hne⟩ => hne (List.prefix_nil.mp hprefix)

theorem properPrefix.length_lt {bs whole : List Byte} (h : properPrefix bs whole) :
    bs.length < whole.length :=
  lt_of_le_of_ne h.1.length_le fun hlen => h.2 (h.1.eq_of_length hlen)

theorem properPrefix_cons {bs whole : List Byte} {b : Byte} (h : properPrefix bs (b :: whole)) :
    bs = [] ∨ ∃ t, bs = b :: t ∧ properPrefix t whole := by
  obtain ⟨hprefix, hne⟩ := h
  obtain rfl | ⟨t, rfl, ht⟩ := List.prefix_cons_iff.mp hprefix
  · exact .inl rfl
  · exact .inr ⟨t, rfl, ht, fun heq => hne (heq ▸ rfl)⟩

section Truncated

variable {bs rest : List Byte}

/-- Behind the last operand nothing is left to end early. -/
theorem lastOperand_truncated {k : List Byte → Decoded} (t : List Byte) (ht : properPrefix t []) :
    k t = .error .truncated :=
  absurd ht (not_properPrefix_nil t)

/-- A word that ends early ends in this operand or after it. -/
theorem withByte_truncated {b : Byte} {k : Byte → List Byte → Decoded}
    (h : properPrefix bs (b :: rest))
    (hk : ∀ t, properPrefix t rest → k b t = .error .truncated) :
    withByte bs k = .error .truncated := by
  obtain rfl | ⟨t, rfl, ht⟩ := properPrefix_cons h
  · rfl
  · exact hk t ht

theorem withWord16_eq_withByte (bs : List Byte) (k : Word16 → List Byte → Decoded) :
    withWord16 bs k = withByte bs fun b0 t => withByte t fun b1 t => k (join16 b0 b1) t := by
  match bs with
  | [] | [_] | _ :: _ :: _ => rfl

theorem withWord32_eq_withByte (bs : List Byte) (k : Word32 → List Byte → Decoded) :
    withWord32 bs k = withByte bs fun b0 t => withByte t fun b1 t => withByte t fun b2 t =>
      withByte t fun b3 t => k (join32 b0 b1 b2 b3) t := by
  match bs with
  | [] | [_] | [_, _] | [_, _, _] | _ :: _ :: _ :: _ :: _ => rfl

theorem withWord16_truncated {v : Word16} {k : Word16 → List Byte → Decoded}
    (h : properPrefix bs (le16 v ++ rest))
    (hk : ∀ t, properPrefix t rest → k v t = .error .truncated) :
    withWord16 bs k = .error .truncated := by
  rw [withWord16_eq_withByte]
  refine withByte_truncated h fun t ht => withByte_truncated ht ?_
  rwa [join16_le16]

theorem withWord32_truncated {v : Word32} {k : Word32 → List Byte → Decoded}
    (h : properPrefix bs (le32 v ++ rest))
    (hk : ∀ t, properPrefix t rest → k v t = .error .truncated) :
    withWord32 bs k = .error .truncated := by
  rw [withWord32_eq_withByte]
  refine withByte_truncated h fun t ht => withByte_truncated ht fun t ht =>
    withByte_truncated ht fun t ht => withByte_truncated ht ?_
  rwa [join32_le32]

/-- A data field stands last, so a word that ends early has less data than its length field says. -/
theorem withData_truncated {n : Nat} {data : List Byte} {k : List Byte → List Byte → Decoded}
    (hn : n = data.length) (h : properPrefix bs data) :
    withData n bs k = .error .truncated := by
  rw [withData, if_pos (hn ▸ h.length_lt)]

end Truncated

/-- A request packet that ends early, whatever its opcode (R92). -/
theorem decodeRequest_truncated {bs payload : List Byte} {opcode : Byte} {chk : Word32}
    (hfits : fits16 payload = true) (h : properPrefix bs (requestPacket opcode payload chk)) :
    decodeRequest bs = .error .empty ∨ decodeRequest bs = .error .truncated := by
  simp only [requestPacket, List.cons_append, List.nil_append, List.append_assoc] at h
  obtain rfl | ⟨fields, rfl, hfields⟩ := properPrefix_cons h
  · exact .inl rfl
  · right
    rw [decodeRequest, if_pos rfl]
    exact withByte_truncated hfields fun t ht => withWord16_truncated ht fun t ht =>
      withWord32_truncated ht fun t ht => withData_truncated (toNat_length16 hfits) ht

/-- The operands of an operation that ends early (R100, R101). -/
theorem decodeHostOp_truncated {i : Instr} {op : Byte} {operands t : List Byte}
    (hformat : i.format = .hostOp) (hwf : i.wellFormed = true) (hencode : encode i = op :: operands)
    (ht : properPrefix t operands) : decodeHostOp (op :: t) = .error .truncated := by
  cases i with
  | getmode | cancel | rddiag | drain | slipBegin | slipEnd | romSync | romFend =>
    cases hencode
    exact absurd ht (not_properPrefix_nil t)
  | setmode | setdev | rxsig | slipByte | slipRxbyte =>
    cases hencode
    exact withByte_truncated ht lastOperand_truncated
  | send data =>
    cases hencode
    rw [decodeHostOp_send]
    exact withWord16_truncated ht fun u hu => withData_truncated (toNat_length16 hwf) hu
  | romReadreg addr =>
    cases hencode
    rw [decodeHostOp_romReadreg]
    exact withWord32_truncated ht lastOperand_truncated
  | romFbegin size off =>
    cases hencode
    rw [decodeHostOp_romFbegin]
    exact withWord32_truncated ht fun u hu => withWord32_truncated hu lastOperand_truncated
  | romFdata seq data =>
    cases hencode
    rw [decodeHostOp_romFdata]
    exact withWord32_truncated ht fun u hu => withWord16_truncated hu fun v hv =>
      withData_truncated (toNat_length16 hwf) hv
  | romParse frame =>
    cases hencode
    rw [decodeHostOp_romParse]
    exact withByte_truncated ht fun u hu => withData_truncated (toNat_length8 hwf) hu
  | _ => cases hformat

/-- A word that stops before the end of an instruction is no instruction: every format but the
response's says where an instruction ends (R98). -/
theorem decode_properPrefix {i : Instr} {bs : List Byte} (hwf : i.wellFormed = true)
    (hformat : i.format ≠ .romResponse) (h : properPrefix bs (encode i)) :
    decode i.format bs = .error .empty ∨ decode i.format bs = .error .truncated := by
  cases i with
  | response => exact absurd rfl hformat
  | flashBegin | flashData | flashEnd | sync | writeReg | readReg =>
    exact decodeRequest_truncated hwf h
  | rxEnd | rxEsc | rxEscEnd | rxEscEsc | rxOther | txEscEnd | txEscEsc | txLiteral =>
    obtain rfl | ⟨t, -, ht⟩ := properPrefix_cons h
    · exact .inl rfl
    · exact absurd ht (not_properPrefix_nil t)
  | _ =>
    obtain rfl | ⟨t, rfl, ht⟩ := properPrefix_cons h
    · exact .inl rfl
    · exact .inr (decodeHostOp_truncated rfl hwf rfl ht)

/-! ### Bytes that name no row -/

/-- R102: an op code that R100 does not list, whatever stands after it. -/
theorem decodeHostOp_unknownOp {op : Byte}
    (h : op ∉ [0x01#8, 0x02#8, 0x03#8, 0x04#8, 0x05#8, 0x10#8, 0x11#8, 0x12#8, 0x20#8, 0x21#8,
      0x22#8, 0x23#8, 0x30#8, 0x31#8, 0x32#8, 0x33#8, 0x34#8, 0x35#8]) (rest : List Byte) :
    decodeHostOp (op :: rest) = .error (.unknownOp op) := by
  simp only [List.mem_cons, List.not_mem_nil, or_false, not_or] at h
  simp only [decodeHostOp, h, if_false]

/-- R96: the direction byte of a request is 0x00. -/
theorem decodeRequest_notRequest {dir : Byte} (h : dir ≠ 0x00#8) (rest : List Byte) :
    decodeRequest (dir :: rest) = .error (.notRequest dir) := by
  rw [decodeRequest, if_neg h]

theorem requestOf_unlisted {opcode : Byte}
    (h : opcode ∉ [0x02#8, 0x03#8, 0x04#8, 0x08#8, 0x09#8, 0x0A#8]) (chk : Word32)
    (payload : List Byte) : requestOf opcode chk payload = none := by
  simp only [List.mem_cons, List.not_mem_nil, or_false, not_or] at h
  simp only [requestOf, h, if_false]

/-- R95: a whole request packet with an opcode that is no request's. -/
theorem decodeRequest_unlisted {opcode : Byte} {chk : Word32} {payload : List Byte}
    (hnone : requestOf opcode chk payload = none) (hfits : fits16 payload = true)
    (rest : List Byte) :
    decodeRequest (requestPacket opcode payload chk ++ rest) =
      .error (.unlistedRequest opcode) := by
  simp only [requestPacket, List.cons_append, List.nil_append, List.append_assoc, decodeRequest,
    reduceIte, withByte_cons, withWord16_le16, withWord32_le32, withData_length16 hfits, hnone]

/-- R96: a packet of the response side whose first byte is not 0x01, or which is empty. -/
theorem decodeResponse_notResponse {bs : List Byte} (h : bs.head? ≠ some 0x01#8) :
    decodeResponse bs = .error (.notResponse bs) := by
  cases bs with
  | nil => rfl
  | cons dir rest =>
    have hdir : dir ≠ 0x01#8 := fun heq => h (congrArg some heq)
    rw [decodeResponse, if_neg hdir]

end Sys2Proof
end

section
/-! What a step does with a word that is no instruction (spec/41_mode_control.md R166,
spec/30_encoding.md R96, R102, spec/43_rom_codec.md R242). -/

namespace Sys2Proof.Machine

variable {s : State} {ctx : Context} {fmt : Format} {bytes : List Byte} {tail : List Event}

theorem step_of_decode_error {e : DecodeError} (hport : s.port = .word ctx fmt bytes :: tail)
    (hdecode : decode fmt bytes = .error e) :
    step s = rejectWord ctx e { s with port := tail } := by
  rw [step_of_port_word hport, stepWord, hdecode]

theorem step_of_incomplete (hport : s.port = .word ctx fmt bytes :: tail)
    (hdecode : decode fmt bytes = .error .empty ∨ decode fmt bytes = .error .truncated) :
    step s = .refused .incompleteWord := by
  obtain hempty | htruncated := hdecode
  · exact step_of_decode_error hport hempty
  · exact step_of_decode_error hport htruncated

/-- R242: a packet whose direction byte is not a response's is malformed, whatever its length. -/
theorem State.romParse_notResponse (h : bytes.head? ≠ some 0x01#8) (s : State) :
    s.romParse bytes = s.malformed := by
  have hdir : bytes.getD 0 0x00#8 ≠ 0x01#8 := by
    cases bytes with
    | nil => decide
    | cons dir rest => exact fun heq => h (congrArg some heq)
  rw [State.romParse, if_pos (.inr hdir)]

/-- R242: a malformed packet fails the awaiting request. -/
theorem State.malformed_awaiting (h : s.pendAwait = true) :
    s.malformed = { s with
      diag := s.diag ||| 4#4, pendAwait := false,
      cplLog := s.cplLog ++ [.item ⟨.protocol, s.pendOp, 0#8, 0#32⟩] } := by
  rw [State.malformed, State.failPending, State.setDiag_pendAwait, if_pos h]
  rfl

theorem State.malformed_idle (h : s.pendAwait = false) :
    s.malformed = { s with diag := s.diag ||| 4#4 } := by
  rw [State.malformed, State.failPending, State.setDiag_pendAwait, if_neg (by simp [h])]
  rfl

theorem step_of_notResponse (hport : s.port = .word .consumer .romResponse bytes :: tail)
    (h : bytes.head? ≠ some 0x01#8) :
    step s = .next ({ s with port := tail } : State).malformed := by
  rw [step_of_decode_error hport (decodeResponse_notResponse h), rejectWord, if_pos rfl,
    State.romParse_notResponse h]

theorem step_of_notResponse_wrongContext (hport : s.port = .word ctx .romResponse bytes :: tail)
    (h : bytes.head? ≠ some 0x01#8) (hctx : ctx ≠ .consumer) :
    step s = .refused .wrongContext := by
  rw [step_of_decode_error hport (decodeResponse_notResponse h), rejectWord, if_neg hctx]

/-- Settles O6: what the decoder answers on each kind of word, and what the step makes of it. -/
theorem unassignedOpCodeRefused : Obligations.UnassignedOpCodeRefused := by
  intro s ctx tail
  refine ⟨fun op rest hport hop => ⟨?unknownOp, rfl⟩,
    fun i bytes hport hwf hformat hprefix hne => ?incompleteInstr,
    fun op chk payload bytes hport hlen hprefix hne => ?incompleteRequest,
    fun dir rest hport hdir => ?notRequest,
    fun op chk payload rest hport hlen hop => ?unlistedRequest,
    fun bytes hport hhead => ⟨?wrongContext, ?awaiting, ?idle⟩⟩
  case unknownOp => exact step_of_decode_error hport (decodeHostOp_unknownOp hop rest)
  case incompleteInstr =>
    exact step_of_incomplete hport (decode_properPrefix hwf hformat ⟨hprefix, hne⟩)
  case incompleteRequest =>
    exact step_of_incomplete hport (decodeRequest_truncated (decide_eq_true hlen) ⟨hprefix, hne⟩)
  case notRequest => exact step_of_decode_error hport (decodeRequest_notRequest hdir rest)
  case unlistedRequest =>
    exact step_of_decode_error hport
      (decodeRequest_unlisted (requestOf_unlisted hop chk payload) (decide_eq_true hlen) rest)
  case wrongContext => exact step_of_notResponse_wrongContext hport hhead
  case awaiting =>
    rintro rfl hawait
    rw [step_of_notResponse hport hhead, State.malformed_awaiting]
    exact hawait
  case idle =>
    rintro rfl hidle
    rw [step_of_notResponse hport hhead, State.malformed_idle]
    exact hidle

end Sys2Proof.Machine
end

section
/-! The framer (spec/42_slip.md R181 to R184): the outcomes of opening a frame, of appending to it
and of flushing it. -/

namespace Sys2Proof.Machine

variable {s : State} {wire : List Byte}

/-! ### SLIP_BEGIN -/

/-- Raw framing needs the SLIP transport (R182). -/
theorem exec_slipBegin_notFlashing (hmode : s.mode ≠ .flashing) :
    exec .slipBegin s = .next (s.raise .sequencing) := by
  rw [exec_slipBegin_eq, execSlipBegin, if_pos hmode]

theorem exec_slipBegin_busy (hmode : s.mode = .flashing) (hopen : s.txOpen = true) :
    exec .slipBegin s = .next (s.raise .busy) := by
  rw [exec_slipBegin_eq, execSlipBegin, if_neg (by simp [hmode]), if_pos hopen]

/-- Settles O12, by the checks in their order. -/
theorem slipBeginOpensFrame : Obligations.SlipBeginOpensFrame :=
  ⟨rfl, fun _ => ⟨exec_slipBegin_notFlashing, exec_slipBegin_busy, exec_slipBegin_closed⟩⟩

/-! ### SLIP_BYTE and the framer rows -/

theorem State.txAppend_closed (hclosed : s.txOpen = false) (wire : List Byte) :
    s.txAppend wire = s.raise .sequencing := if_pos hclosed

theorem State.txAppend_open (hopen : s.txOpen = true) (wire : List Byte) :
    s.txAppend wire = { s with txPend := s.txPend ++ wire, result := some ⟨.ok, 0⟩ } :=
  if_neg (by simp [hopen])

/-- R181: every byte but 0xC0 and 0xDB goes out as it is. -/
theorem esc_literal {b : Byte} (hend : b ≠ slipEnd) (hesc : b ≠ slipEsc) : esc b = [b] := by
  rw [esc, if_neg hend, if_neg hesc]

/-- The framer's row of a byte appends what SLIP_BYTE appends (R181; log 9). -/
theorem exec_txClass (s : State) (b : Byte) :
    exec (txClass b) s = .next (s.txAppend (esc b)) := by
  unfold txClass
  split_ifs with hend hesc
  · rw [hend]; rfl
  · rw [hesc]; rfl
  · rw [esc_literal hend hesc]; rfl

/-- Settles O13: SLIP_BYTE and the framer rows are one append of the escaped byte. -/
theorem framerAppendsEscapedByte : Obligations.FramerAppendsEscapedByte := by
  intro s b
  refine ⟨rfl, fun hclosed => ?_, fun hopen => ?_⟩
  · have hraise := State.txAppend_closed hclosed (esc b)
    exact ⟨congrArg _ hraise, (exec_txClass s b).trans (congrArg _ hraise)⟩
  · have happend := State.txAppend_open hopen
    refine ⟨congrArg _ (happend _), congrArg _ (happend _), congrArg _ (happend _),
      congrArg _ (happend _), fun hend hesc => ⟨?_, congrArg _ (happend _)⟩⟩
    rw [← esc_literal hend hesc]
    exact congrArg _ (happend _)

/-! ### SLIP_END -/

theorem exec_slipEnd_closed (hclosed : s.txOpen = false) :
    exec .slipEnd s = .next (s.raise .sequencing) := by
  rw [exec_slipEnd_eq, execSlipEnd, if_pos hclosed]

/-- Without a device the frame is closed and discarded (R184). -/
theorem exec_slipEnd_noDevice (hopen : s.txOpen = true) (hdev : s.devPresent = false) :
    exec .slipEnd s = .next (s.closeFrame.raise .noDevice) := by
  rw [exec_slipEnd_eq, execSlipEnd, if_neg (by simp [hopen]), if_pos hdev]

/-- With a device the frame is closed and goes out whole, in one write with its closing delimiter
(R184). -/
theorem exec_slipEnd_flush (hopen : s.txOpen = true) (hdev : s.devPresent = true) :
    exec .slipEnd s = .next (s.closeFrame.sendWire (s.txPend ++ [slipEnd])) := by
  rw [exec_slipEnd_eq, execSlipEnd, if_neg (by simp [hopen]), if_neg (by simp [hdev])]

/-- A draw does not read the open frame (R131). -/
theorem State.spendDraw_closeFrame (s : State) :
    s.closeFrame.spendDraw = s.spendDraw.closeFrame := by
  unfold State.spendDraw State.closeFrame
  dsimp only
  split <;> rfl

/-- Settles O14: what passes the checks is one write from the closed frame. -/
theorem slipEndFlushesFrame : Obligations.SlipEndFlushesFrame := by
  refine ⟨rfl, fun s => ⟨exec_slipEnd_closed, exec_slipEnd_noDevice, fun hopen hdev => ?_⟩⟩
  rw [exec_slipEnd_flush hopen hdev]
  refine ⟨fun haccepts => ?_, fun hfails => ?_⟩
  · exact congrArg _ (s.closeFrame.sendWire_accepted haccepts)
  · obtain ⟨k, hk, hwrite⟩ := s.closeFrame.sendWire_failed hfails
    refine ⟨k, by simpa using hk, congrArg _ (hwrite.trans ?_)⟩
    rw [s.spendDraw_closeFrame]
    rfl

end Sys2Proof.Machine
end

section
/-! The deframer's table (spec/42_slip.md R185 to R194): the row of a received byte is its
transition, and each transition leaves a state given field by field. -/

namespace Sys2Proof.Machine

variable {s : State} {v b : Byte}

/-! ### The rows of a received byte -/

/-- The byte that a received-byte row stands for (R91). -/
def receivedByte : Instr → Option Byte
  | .rxEnd => some slipEnd
  | .rxEsc => some slipEsc
  | .rxEscEnd => some slipEscEnd
  | .rxEscEsc => some slipEscEsc
  | .rxOther b => some b
  | _ => none

/-- A received-byte row is the transition of its byte, where RXF_LEN is a length FRAME can have. -/
theorem exec_received {i : Instr} (hi : receivedByte i = some b) (hlen : s.rxfLen ≤ frameCap) :
    exec i s = .next (s.rxByte b) := by
  unfold receivedByte at hi
  split at hi <;> cases hi <;> exact if_pos hlen

theorem exec_slipRxbyte_notFlashing (hmode : s.mode ≠ .flashing) :
    exec (.slipRxbyte b) s = .next (s.raise .sequencing) := by
  rw [exec_slipRxbyte_eq, execSlipRxbyte, if_pos hmode]

theorem exec_slipRxbyte_flashing (hmode : s.mode = .flashing) (hlen : s.rxfLen ≤ frameCap) :
    exec (.slipRxbyte b) s = .next ((s.rxByte b).ret .ok 0) := by
  rw [exec_slipRxbyte_eq, execSlipRxbyte, if_neg (by simp [hmode])]
  exact if_pos hlen

/-- Settles O15: both run the transition of the byte. -/
theorem slipRxbyteIsTheByteTransition : Obligations.SlipRxbyteIsTheByteTransition := by
  refine fun s b => ⟨rfl, exec_slipRxbyte_notFlashing, fun hmode hlen =>
    ⟨s.rxByte b, (exec_rxClass s b).trans (if_pos hlen), exec_slipRxbyte_flashing hmode hlen⟩⟩

/-! ### Outside a frame -/

/-- R187. -/
theorem State.rxByte_idle_discards (h : s.rxfState = .idle) (hb : b ≠ slipEnd) :
    s.rxByte b = s := by
  simp [State.rxByte, h, hb]

/-- Settles O16: none of the rows' bytes is the delimiter. -/
theorem bytesOutsideFrameDiscarded : Obligations.BytesOutsideFrameDiscarded := by
  intro s b hidle hlen
  have hdiscards : ∀ {i : Instr} {b : Byte}, receivedByte i = some b → b ≠ slipEnd →
      exec i s = .next s := fun hi hb => by
    rw [exec_received hi hlen, State.rxByte_idle_discards hidle hb]
  exact ⟨hdiscards rfl (by decide), hdiscards rfl (by decide), hdiscards rfl (by decide),
    hdiscards rfl⟩

/-! ### Storing a byte -/

/-- R193, with room. -/
theorem State.append_of_room (h : s.rxfLen < frameCap) (v : Byte) :
    s.append v = { s with frame := s.frame.write s.rxfLen v, rxfLen := s.rxfLen + 1 } := if_pos h

/-- R193, at capacity: the byte is dropped. -/
theorem State.append_of_full (h : s.rxfLen = frameCap) (v : Byte) :
    s.append v = { s with rxfTrunc := true, diag := s.diag ||| diagOvf } :=
  if_neg (Nat.not_lt.mpr h.ge)

theorem State.appendEscaped_of_room (h : s.rxfLen < frameCap) (v : Byte) :
    s.appendEscaped v = { s with
      rxfState := .inFrame, frame := s.frame.write s.rxfLen v, rxfLen := s.rxfLen + 1 } := by
  rw [State.appendEscaped, State.append_of_room h]

/-- The escape ends although the byte it stands for is dropped (R191, R193). -/
theorem State.appendEscaped_of_full (h : s.rxfLen = frameCap) (v : Byte) :
    s.appendEscaped v = { s with
      rxfState := .inFrame, rxfTrunc := true, diag := s.diag ||| diagOvf } := by
  rw [State.appendEscaped, State.append_of_full h]

theorem exec_rxEsc_inFrame (hlen : s.rxfLen ≤ frameCap) (h : s.rxfState = .inFrame) :
    exec .rxEsc s = .next { s with rxfState := .escPending } := by
  rw [exec_received rfl hlen, State.rxByte_inFrame_esc h]

theorem exec_received_inFrame {i : Instr} (hi : receivedByte i = some b) (hend : b ≠ slipEnd)
    (hesc : b ≠ slipEsc) (hlen : s.rxfLen ≤ frameCap) (h : s.rxfState = .inFrame) :
    exec i s = .next (s.append b) := by
  rw [exec_received hi hlen, State.rxByte_inFrame_ordinary h hesc hend]

theorem exec_rxEscEnd_escPending (hlen : s.rxfLen ≤ frameCap) (h : s.rxfState = .escPending) :
    exec .rxEscEnd s = .next (s.appendEscaped slipEnd) := by
  rw [exec_received rfl hlen, State.rxByte_escPending_escEnd h]

theorem exec_rxEscEsc_escPending (hlen : s.rxfLen ≤ frameCap) (h : s.rxfState = .escPending) :
    exec .rxEscEsc s = .next (s.appendEscaped slipEsc) := by
  rw [exec_received rfl hlen, State.rxByte_escPending_escEsc h]

/-- Settles O17: each row that stores a byte appends it, and there is room. -/
theorem deframerStoresAndEscapes : Obligations.DeframerStoresAndEscapes := by
  intro s b hroom
  have hlen : s.rxfLen ≤ frameCap := hroom.le
  have hstored := State.append_of_room hroom
  have hescaped := State.appendEscaped_of_room hroom
  refine ⟨fun hidle => ?opens, fun hin => ⟨exec_rxEsc_inFrame hlen hin, ?_, ?_,
    fun hend hesc => ?_⟩, fun hpending => ⟨?_, ?_⟩⟩
  case opens =>
    rw [exec_received rfl hlen, State.rxByte_idle_end hidle]
    exact congrArg _ (State.append_of_room (s := { s with rxfState := .inFrame }) hroom slipEnd)
  · exact (exec_received_inFrame rfl (by decide) (by decide) hlen hin).trans
      (congrArg _ (hstored _))
  · exact (exec_received_inFrame rfl (by decide) (by decide) hlen hin).trans
      (congrArg _ (hstored _))
  · exact (exec_received_inFrame rfl hend hesc hlen hin).trans (congrArg _ (hstored b))
  · exact (exec_rxEscEnd_escPending hlen hpending).trans (congrArg _ (hescaped _))
  · exact (exec_rxEscEsc_escPending hlen hpending).trans (congrArg _ (hescaped _))

/-- Settles O18: each row that stores a byte appends it, and FRAME is full. -/
theorem fullFrameDropsBytes : Obligations.FullFrameDropsBytes := by
  intro s b hfull
  have hlen : s.rxfLen ≤ frameCap := hfull.le
  have hdropped := State.append_of_full hfull
  have hescaped := State.appendEscaped_of_full hfull
  refine ⟨fun hin => ⟨?_, ?_, exec_rxEsc_inFrame hlen hin, fun hend hesc => ?_⟩,
    fun hpending => ⟨?_, ?_⟩⟩
  · exact (exec_received_inFrame rfl (by decide) (by decide) hlen hin).trans
      (congrArg _ (hdropped _))
  · exact (exec_received_inFrame rfl (by decide) (by decide) hlen hin).trans
      (congrArg _ (hdropped _))
  · exact (exec_received_inFrame rfl hend hesc hlen hin).trans (congrArg _ (hdropped b))
  · exact (exec_rxEscEnd_escPending hlen hpending).trans (congrArg _ (hescaped _))
  · exact (exec_rxEscEsc_escPending hlen hpending).trans (congrArg _ (hescaped _))

/-! ### Ending a frame -/

/-- R189: a delimiter right after the opening one. -/
theorem State.rxByte_inFrame_backToBack (h : s.rxfState = .inFrame) (hlen : s.rxfLen = 1) :
    s.rxByte slipEnd = s := by
  simp [State.rxByte, h, hlen, show slipEnd ≠ slipEsc by decide]

/-- R189: a delimiter after at least one packet byte. -/
theorem State.rxByte_inFrame_end (h : s.rxfState = .inFrame) (hlen : s.rxfLen ≠ 1) :
    s.rxByte slipEnd = s.endFrame := by
  simp [State.rxByte, h, hlen, show slipEnd ≠ slipEsc by decide]

/-- R240: a whole frame has a delimiter at each end. -/
theorem State.handOff_whole (htrunc : s.rxfTrunc = false) {n : Nat} (hn : 1 ≤ n)
    (hlen : s.rxfLen = n + 1) : s.handOff = s.romParse (s.frame.slice 1 n) := by
  have hpacket : framePacket s.frameBytes s.rxfTrunc = s.frame.slice 1 n := by
    rw [State.frameBytes, hlen, htrunc, Memory.slice_succ _ (Nat.zero_le n),
      Memory.slice_cons _ hn]
    exact List.dropLast_concat
  rw [State.handOff, State.romReceive, hpacket]

/-- R240: a truncated frame has lost its closing delimiter. -/
theorem State.handOff_truncated (htrunc : s.rxfTrunc = true) (hlen : 0 < s.rxfLen) :
    s.handOff = s.romParse (s.frame.slice 1 s.rxfLen) := by
  have hpacket : framePacket s.frameBytes s.rxfTrunc = s.frame.slice 1 s.rxfLen := by
    rw [State.frameBytes, htrunc, Memory.slice_cons _ hlen]
    rfl
  rw [State.handOff, State.romReceive, hpacket]

/-- The closing delimiter is stored, and the packet before it handed off (R189, R240). -/
theorem State.endFrame_of_room (htrunc : s.rxfTrunc = false) (hopened : 1 ≤ s.rxfLen)
    (hroom : s.rxfLen < frameCap) :
    s.endFrame = ((s.romParse (s.frame.slice 1 s.rxfLen)).putFrame
      (s.frame.write s.rxfLen slipEnd)).deframerReset := by
  have hstored := State.append_of_room hroom slipEnd
  have hpacket : (s.append slipEnd).frame.slice 1 s.rxfLen = s.frame.slice 1 s.rxfLen := by
    rw [hstored]
    exact Memory.slice_congr fun k _ hk => Memory.read_write_other _ _ hk.ne
  have hhand : (s.append slipEnd).handOff =
      (s.append slipEnd).romParse (s.frame.slice 1 s.rxfLen) := by
    rw [State.handOff_whole (by rw [hstored]; exact htrunc) hopened (by rw [hstored]), hpacket]
  have hparse := s.romParse_deframer (s.frame.slice 1 s.rxfLen) s.rxfState (s.rxfLen + 1)
    (s.frame.write s.rxfLen slipEnd) s.rxfTrunc
  rw [State.endFrame, hhand, hstored]
  exact (congrArg State.deframerReset hparse :)

/-- The closing delimiter is dropped, and everything after the opening one handed off (R189,
R240). -/
theorem State.endFrame_of_full (hfull : s.rxfLen = frameCap) :
    s.endFrame = ((s.setDiag diagOvf).romParse (s.frame.slice 1 frameCap)).deframerReset := by
  have hdropped := State.append_of_full hfull slipEnd
  have hhand : (s.append slipEnd).handOff =
      (s.append slipEnd).romParse (s.frame.slice 1 frameCap) := by
    rw [hdropped, State.handOff_truncated rfl (by simp [hfull, frameCap]), hfull]
  have hparse := (s.setDiag diagOvf).romParse_commutes (s.frame.slice 1 frameCap)
    (fun t => { t with rxfTrunc := true }) (fun _ _ _ _ => rfl) rfl rfl rfl
  rw [State.endFrame, hhand, hdropped]
  exact (congrArg State.deframerReset hparse :)

/-- Settles O20: absorbed right after the opening delimiter, else the end of the frame, with room
for the closing delimiter or without. -/
theorem closingDelimiterHandsOff : Obligations.ClosingDelimiterHandsOff := by
  refine fun s hin => ⟨fun h1 => ?_, fun h2 hroom htrunc => ?_, fun hfull => ?_⟩
  · rw [exec_received rfl (h1.trans_le (by decide)), State.rxByte_inFrame_backToBack hin h1]
  · rw [exec_received rfl hroom.le, State.rxByte_inFrame_end hin (by omega),
      State.endFrame_of_room htrunc (by omega) hroom]
    rfl
  · rw [exec_received rfl hfull.le, State.rxByte_inFrame_end hin (by omega),
      State.endFrame_of_full hfull]
    rfl

/-! ### A malformed escape -/

/-- R192. -/
theorem State.rxByte_escPending_bad (h : s.rxfState = .escPending) (hend : b ≠ slipEscEnd)
    (hesc : b ≠ slipEscEsc) : s.rxByte b = s.badEscape := by
  simp [State.rxByte, h, hend, hesc]

theorem State.badEscape_awaiting (h : s.pendAwait = true) :
    s.badEscape = { s with
      rxfState := .idle, rxfLen := 0, rxfTrunc := false, diag := s.diag ||| diagBadesc,
      pendAwait := false, cplLog := s.cplLog ++ [.item ⟨.framing, s.pendOp, 0#8, 0#32⟩] } :=
  congrArg State.deframerReset (if_pos h)

theorem State.badEscape_idle (h : s.pendAwait = false) :
    s.badEscape = { s with
      rxfState := .idle, rxfLen := 0, rxfTrunc := false, diag := s.diag ||| diagBadesc } :=
  congrArg State.deframerReset (if_neg (by simp [h]))

/-- The rows that complete no escape (R91, R192). -/
theorem receivedByte_completes_no_escape {i : Instr} (hwf : i.wellFormed = true)
    (hi : i = .rxEnd ∨ i = .rxEsc ∨ ∃ b, i = .rxOther b) :
    ∃ b, receivedByte i = some b ∧ b ≠ slipEscEnd ∧ b ≠ slipEscEsc := by
  obtain rfl | rfl | ⟨b, rfl⟩ := hi
  · exact ⟨_, rfl, by decide, by decide⟩
  · exact ⟨_, rfl, by decide, by decide⟩
  · refine ⟨b, rfl, ?_, ?_⟩
    · rintro rfl
      exact absurd hwf (by decide)
    · rintro rfl
      exact absurd hwf (by decide)

/-- Settles O21: the byte completes no escape, so it is a bad one. -/
theorem badEscapeResetsDeframer : Obligations.BadEscapeResetsDeframer := by
  intro s i hpending hlen hwf hi
  obtain ⟨b, hb, hend, hesc⟩ := receivedByte_completes_no_escape hwf hi
  rw [exec_received hb hlen, State.rxByte_escPending_bad hpending hend hesc]
  exact ⟨fun hnone => congrArg _ (State.badEscape_idle hnone),
    fun hawait => congrArg _ (State.badEscape_awaiting hawait)⟩

end Sys2Proof.Machine
end

section
/-! The deframer on the wire frame of a packet (spec/42_slip.md R181, R185 to R193, R196): an escape
is undone by one append, a packet that fits is stored whole, and the frame ends as if what does not
fit had not come. -/

namespace Sys2Proof.Machine

variable {s : State} {p : List Byte}

/-! ### Undoing the escapes -/

/-- R188, R191: an escape inside a frame appends the byte it stands for. -/
theorem State.appendEscaped_after_esc (h : s.rxfState = .inFrame) (v : Byte) :
    ({ s with rxfState := .escPending } : State).appendEscaped v = s.append v := by
  unfold State.appendEscaped State.append State.setDiag
  dsimp only
  split <;> rw [← h]

/-- R196 for one byte. -/
theorem State.rxBytes_esc (h : s.rxfState = .inFrame) (b : Byte) :
    s.rxBytes (esc b) = s.append b := by
  obtain ⟨rfl, e⟩ | ⟨rfl, e⟩ | ⟨hend, hesc, e⟩ := esc_cases b <;>
    simp only [e, State.rxBytes_cons, State.rxBytes_nil]
  · rw [State.rxByte_inFrame_esc h, State.rxByte_escPending_escEnd rfl,
      State.appendEscaped_after_esc h]
  · rw [State.rxByte_inFrame_esc h, State.rxByte_escPending_escEsc rfl,
      State.appendEscaped_after_esc h]
  · exact State.rxByte_inFrame_ordinary h hesc hend

/-- The packet bytes `p` appended in order. -/
def State.appendAll (p : List Byte) (s : State) : State := p.foldl (fun t b => t.append b) s

theorem State.appendAll_append (s : State) (p q : List Byte) :
    s.appendAll (p ++ q) = (s.appendAll p).appendAll q := List.foldl_append

theorem State.appendAll_concat (s : State) (p : List Byte) (b : Byte) :
    s.appendAll (p ++ [b]) = (s.appendAll p).append b := s.appendAll_append p [b]

theorem State.appendAll_rxfState (s : State) (p : List Byte) :
    (s.appendAll p).rxfState = s.rxfState := by
  induction p using List.reverseRecOn with
  | nil => rfl
  | append_singleton p b ih => rw [State.appendAll_concat, State.append_rxfState, ih]

theorem State.rxBytes_escAll (h : s.rxfState = .inFrame) (p : List Byte) :
    s.rxBytes (escAll p) = s.appendAll p := by
  induction p using List.reverseRecOn with
  | nil => rfl
  | append_singleton p b ih =>
    rw [escAll_append, State.rxBytes_append, ih, State.appendAll_concat, escAll_cons, escAll_nil,
      List.append_nil, State.rxBytes_esc ((s.appendAll_rxfState p).trans h)]

/-! ### What the buffer holds at the closing delimiter -/

/-- Inside a frame, with these contents of the buffer. -/
def State.inFrameWith (n : Nat) (m : Memory) (s : State) : State :=
  { s with rxfState := .inFrame, rxfLen := n, frame := m }

/-- The frame that has just been opened holds its delimiter (R186). -/
def State.frameOpened (s : State) : State := s.inFrameWith 1 (s.frame.write 0 slipEnd)

theorem State.rxByte_idle_opens (h : s.rxfState = .idle) (h0 : s.rxfLen = 0) :
    s.rxByte slipEnd = s.frameOpened := by
  have hroom : ({ s with rxfState := .inFrame } : State).rxfLen < frameCap := by simp [h0, frameCap]
  rw [State.rxByte_idle_end h, State.append_of_room hroom, State.frameOpened, State.inFrameWith]
  simp only [h0]

/-- A wire frame opens a frame, appends its packet and closes the frame (R196). -/
theorem State.rxBytes_slipFrame (h : s.rxfState = .idle) (h0 : s.rxfLen = 0) (p : List Byte) :
    s.rxBytes (slipFrame p) = (s.frameOpened.appendAll p).rxByte slipEnd := by
  simp only [slipFrame, State.rxBytes_append, State.rxBytes_cons, State.rxBytes_nil,
    State.rxByte_idle_opens h h0]
  rw [State.rxBytes_escAll rfl]

/-- Behind the opening delimiter FRAME has room for 127 packet bytes, and holds them (R193). -/
theorem State.appendAll_frameOpened (hwf : s.frame.wf) (hp : p.length < frameCap) :
    ∃ m : Memory, s.frameOpened.appendAll p = s.inFrameWith (1 + p.length) m ∧ m.wf ∧
      m.slice 1 (1 + p.length) = p := by
  induction p using List.reverseRecOn with
  | nil => exact ⟨_, rfl, Memory.write_wf hwf 0 slipEnd, rfl⟩
  | append_singleton p b ih =>
    rw [List.length_append, List.length_singleton] at hp ⊢
    obtain ⟨m, happend, hm, hslice⟩ := ih (by omega)
    have hroom : (s.inFrameWith (1 + p.length) m).rxfLen < frameCap := by
      rw [Nat.add_comm]; exact hp
    have hkept : (m.write (1 + p.length) b).slice 1 (1 + p.length) = p :=
      (Memory.slice_congr fun k _ hk => Memory.read_write_other _ _ hk.ne).trans hslice
    refine ⟨m.write (1 + p.length) b, ?_, Memory.write_wf hm _ _, ?_⟩
    · rw [State.appendAll_concat, happend, State.append_of_room hroom]
      rfl
    · rw [← Nat.add_assoc, Memory.slice_succ _ (by omega), hkept, Memory.read_write_same hm]

theorem State.append_rxfLen_of_full (h : s.rxfLen = frameCap) (v : Byte) :
    (s.append v).rxfLen = frameCap := by
  rw [State.append_of_full h]
  exact h

/-- At capacity a dropped byte leaves the same marks as the next dropped one (R193). -/
theorem State.append_append_of_full (h : s.rxfLen = frameCap) (v w : Byte) :
    (s.append v).append w = s.append w := by
  rw [State.append_of_full (State.append_rxfLen_of_full h v), State.append_of_full h v,
    State.append_of_full h w]
  simp only [BitVec.or_assoc, BitVec.or_self]

theorem State.appendAll_rxfLen_of_full (h : s.rxfLen = frameCap) (p : List Byte) :
    (s.appendAll p).rxfLen = frameCap := by
  induction p generalizing s with
  | nil => exact h
  | cons b p ih => exact ih (State.append_rxfLen_of_full h b)

theorem State.append_appendAll_of_full (h : s.rxfLen = frameCap) (p : List Byte) (w : Byte) :
    (s.appendAll p).append w = s.append w := by
  induction p generalizing s with
  | nil => rfl
  | cons b p ih =>
    exact (ih (State.append_rxfLen_of_full h b)).trans (State.append_append_of_full h b w)

/-- The frame ends as if the bytes that did not fit had not come (R189, R193). -/
theorem State.endFrame_appendAll_of_full (h : s.rxfLen = frameCap) (p : List Byte) :
    (s.appendAll p).endFrame = s.endFrame := by
  rw [State.endFrame, State.endFrame, State.append_appendAll_of_full h]

/-! ### The hand-off -/

/-- A parse inside a frame, and then the reset, is the parse from IDLE with other bytes in FRAME. -/
theorem State.romParse_inFrameWith_reset (h : s.rxfState = .idle) (h0 : s.rxfLen = 0)
    (htrunc : s.rxfTrunc = false) (q : List Byte) (n : Nat) (m : Memory) :
    ((s.inFrameWith n m).romParse q).deframerReset = (s.romParse q).putFrame m := by
  obtain ⟨hst, hlen, -, htr⟩ := s.romParse_own q
  rw [h] at hst
  rw [h0] at hlen
  rw [htrunc] at htr
  have hparse := s.romParse_deframer q .inFrame n m s.rxfTrunc
  rw [State.inFrameWith, hparse, State.deframerReset, State.putFrame, hst, hlen, htr]

/-- A packet of 1 to 126 bytes leaves room for the closing delimiter (R193, R196). -/
theorem State.rxBytes_slipFrame_short (h : s.rxfState = .idle) (h0 : s.rxfLen = 0)
    (htrunc : s.rxfTrunc = false) (hwf : s.frame.wf) (hpos : 1 ≤ p.length)
    (hshort : p.length ≤ 126) :
    ∃ m, s.rxBytes (slipFrame p) = (s.romParse p).putFrame m := by
  have hroom : 1 + p.length < frameCap := by rw [frameCap]; omega
  have hsome : 1 + p.length ≠ 1 := by omega
  obtain ⟨m, hheld, -, hslice⟩ := State.appendAll_frameOpened hwf (p := p) (by omega)
  have hpacket : (s.inFrameWith (1 + p.length) m).frame.slice 1
      (s.inFrameWith (1 + p.length) m).rxfLen = p := hslice
  have hparse := State.romParse_inFrameWith_reset h h0 htrunc p (1 + p.length) m
  refine ⟨m.write (1 + p.length) slipEnd, ?_⟩
  rw [State.rxBytes_slipFrame h h0, hheld, State.rxByte_inFrame_end rfl hsome,
    State.endFrame_of_room (s := s.inFrameWith _ m) htrunc (Nat.le_add_right 1 _) hroom, hpacket]
  exact (congrArg (State.putFrame (m.write (1 + p.length) slipEnd)) hparse :)

/-- A packet of 127 bytes or more fills FRAME, and the closing delimiter is dropped (R193, R196). -/
theorem State.rxBytes_slipFrame_long (h : s.rxfState = .idle) (h0 : s.rxfLen = 0)
    (htrunc : s.rxfTrunc = false) (hwf : s.frame.wf) (hlong : 127 ≤ p.length) :
    ∃ m, s.rxBytes (slipFrame p) = ((s.setDiag diagOvf).romParse (p.take 127)).putFrame m := by
  have htake : (p.take 127).length = 127 := List.length_take_of_le hlong
  obtain ⟨m, hheld, -, hslice⟩ := State.appendAll_frameOpened hwf (p := p.take 127)
    (by rw [htake]; decide)
  rw [htake] at hheld hslice
  have hpacket : (s.inFrameWith frameCap m).frame.slice 1 frameCap = p.take 127 := hslice
  have hfilled : s.frameOpened.appendAll p =
      (s.inFrameWith frameCap m).appendAll (p.drop 127) := by
    conv_lhs => rw [← List.take_append_drop 127 p]
    rw [State.appendAll_append, hheld]
    rfl
  have hin : ((s.inFrameWith frameCap m).appendAll (p.drop 127)).rxfState = .inFrame :=
    State.appendAll_rxfState _ _
  have hlen : ((s.inFrameWith frameCap m).appendAll (p.drop 127)).rxfLen ≠ 1 := by
    rw [State.appendAll_rxfLen_of_full rfl]
    decide
  refine ⟨m, ?_⟩
  rw [State.rxBytes_slipFrame h h0, hfilled, State.rxByte_inFrame_end hin hlen,
    State.endFrame_appendAll_of_full rfl, State.endFrame_of_full rfl, hpacket]
  exact State.romParse_inFrameWith_reset (s := s.setDiag diagOvf) h h0 htrunc _ frameCap m

/-- Settles O49, by the length of the packet: nothing between the delimiters, room for the closing
one, or none. -/
theorem slipRoundTrip : Obligations.SlipRoundTrip := by
  intro s p h h0 htrunc hwf
  refine ⟨fun hempty => ?empty, fun hp => ?packet⟩
  case empty =>
    rw [State.rxBytes_slipFrame h h0, hempty]
    exact State.rxByte_inFrame_backToBack rfl rfl
  case packet =>
    rcases Nat.lt_or_ge 126 p.length with hlong | hshort
    · rw [if_neg (by omega)]
      exact State.rxBytes_slipFrame_long h h0 htrunc hwf hlong
    · rw [if_pos hshort, List.take_of_length_le (by omega)]
      exact State.rxBytes_slipFrame_short h h0 htrunc hwf hp hshort

end Sys2Proof.Machine
end

section
/-! How DRAIN splits the received bytes does not matter (spec/42_slip.md R195,
spec/40_byte_source.md R133): the DMA agent and the deframer work on disjoint parts of the state, so
bytes may arrive before or after others are deframed. -/

namespace Sys2Proof.Machine

variable {s t : State} {a b : List Byte}

/-! ### The deframer does not touch the ring -/

/-- The state with the ring, and what the DMA agent keeps beside it, of `r`. -/
def State.putRing (s r : State) : State :=
  { s with
    rxbuf := r.rxbuf, dmaRemaining := r.dmaRemaining, irqHt := r.irqHt, irqTc := r.irqTc }

/-- The ring and the DMA agent's registers are neither read nor written by `f`. -/
def blindToRing (f : State → State) : Prop :=
  ∀ s r : State, f (s.putRing r) = (f s).putRing r

namespace blindToRing

theorem comp {f g : State → State} (hg : blindToRing g) (hf : blindToRing f) :
    blindToRing fun s => g (f s) :=
  fun s r => (congrArg g (hf s r)).trans (hg (f s) r)

/-- One of two states, by a condition that `s` and its copy with another ring share. -/
theorem ite {r u u' v v' : State} {c : Prop} [Decidable c] (hthen : u' = u.putRing r)
    (helse : v' = v.putRing r) : (if c then u' else v') = (if c then u else v).putRing r := by
  rw [hthen, helse, apply_ite (State.putRing · r)]

theorem setState (st : RxfState) : blindToRing fun s => { s with rxfState := st } :=
  fun _ _ => rfl

theorem append (v : Byte) : blindToRing (State.append v) := fun _ _ => ite rfl rfl

theorem failPending (c : CompletionCode) : blindToRing (State.failPending c) :=
  fun _ _ => ite rfl rfl

theorem romParse (p : List Byte) : blindToRing (State.romParse p) :=
  fun s r => s.romParse_commutes p (State.putRing · r) (fun _ _ _ _ => rfl) rfl rfl rfl

theorem handOff : blindToRing State.handOff :=
  fun s r => romParse (framePacket s.frameBytes s.rxfTrunc) s r

theorem deframerReset : blindToRing State.deframerReset := fun _ _ => rfl

theorem appendEscaped (v : Byte) : blindToRing (State.appendEscaped v) :=
  (setState .inFrame).comp (append v)

theorem endFrame : blindToRing State.endFrame :=
  deframerReset.comp (handOff.comp (append slipEnd))

theorem badEscape : blindToRing State.badEscape :=
  deframerReset.comp ((failPending .framing).comp fun _ _ => rfl)

theorem rxByte (b : Byte) : blindToRing (State.rxByte b) := by
  intro s r
  have hst : (s.putRing r).rxfState = s.rxfState := rfl
  unfold State.rxByte
  rw [hst]
  cases s.rxfState with
  | idle => exact ite ((append slipEnd).comp (setState .inFrame) s r) rfl
  | inFrame => exact ite rfl (ite rfl (ite (endFrame s r) (append b s r)))
  | escPending =>
    exact ite (appendEscaped slipEnd s r) (ite (appendEscaped slipEsc s r) (badEscape s r))

theorem rxBytes (bs : List Byte) : blindToRing (State.rxBytes bs) := by
  induction bs with
  | nil => exact fun _ _ => rfl
  | cons b bs ih => exact ih.comp (rxByte b)

end blindToRing

/-! ### The DMA agent does not touch the deframer -/

theorem State.dmaReceiveAll_append (s : State) (a b : List Byte) :
    s.dmaReceiveAll (a ++ b) = (s.dmaReceiveAll a).dmaReceiveAll b := List.foldl_append

/-- A byte that arrives is put into whatever state has the ring of `r`. -/
theorem State.dmaReceive_putRing (hcfg : t.cfg = s.cfg) (hactive : t.dmaActive = s.dmaActive)
    (b : Byte) : (t.putRing s).dmaReceive b = t.putRing (s.dmaReceive b) := by
  unfold State.dmaReceive State.dmaNextCount State.dmaPos State.putRing
  dsimp only
  rw [hcfg, hactive]
  split <;> rw [← hactive]

/-- What arrives does not depend on what the deframer has done since (R64). -/
theorem deframed_dmaReceiveAll (h : deframed s t) (bs : List Byte) :
    t.dmaReceiveAll bs = t.putRing (s.dmaReceiveAll bs) := by
  have hframe := deframed_frame h
  induction bs using List.reverseRecOn with
  | nil => rw [hframe]; rfl
  | append_singleton bs b ih =>
    have hcfg : t.cfg = (s.dmaReceiveAll bs).cfg := by rw [s.dmaReceiveAll_cfg, hframe]
    have hactive : t.dmaActive = (s.dmaReceiveAll bs).dmaActive := by
      rw [s.dmaReceiveAll_dmaActive, hframe]
    rw [State.dmaReceiveAll_concat, ih, State.dmaReceive_putRing hcfg hactive,
      State.dmaReceiveAll_concat]

/-- Bytes may arrive before or after others are deframed (R133, R195). -/
theorem State.rxBytes_dmaReceiveAll (s : State) (a b : List Byte) :
    (s.dmaReceiveAll b).rxBytes a = (s.rxBytes a).dmaReceiveAll b := by
  rw [deframed_dmaReceiveAll (s.rxBytes_deframed a) b, ← blindToRing.rxBytes a s]
  exact congrArg (State.rxBytes a) (s.dmaReceiveAll_frame b)

/-- NQ_COUNT, LAST_POS and the result are not the DMA agent's. -/
theorem State.dmaReceiveAll_others (s : State) (bs : List Byte) (n l : Nat)
    (r : Option OpResult) :
    ({ s with nqCount := n, lastPos := l, result := r } : State).dmaReceiveAll bs =
      { s.dmaReceiveAll bs with nqCount := n, lastPos := l, result := r } := by
  induction bs using List.reverseRecOn with
  | nil => rfl
  | append_singleton bs b ih =>
    rw [State.dmaReceiveAll_concat, State.dmaReceiveAll_concat, ih]
    unfold State.dmaReceive
    dsimp only
    split <;> rfl

/-! ### One drain, and two -/

/-- In Flashing, with a device, the transfer running and nothing undrained. -/
structure readyToReceive (s : State) : Prop where
  inv : Inv s
  drained : s.drained
  active : s.dmaActive = true
  device : s.devPresent = true
  flashing : s.mode = .flashing

/-- The state after fewer than RX_CAP bytes have arrived and been drained (R132, R133). -/
def State.afterDrain (bs : List Byte) (s : State) : State :=
  { (s.dmaReceiveAll bs).rxBytes bs with
    nqCount := s.nqCount - 1, lastPos := (s.lastPos + bs.length) % s.cfg.rxCap,
    result := some ⟨.ok, bs.length⟩ }

/-- A drain leaves alone what the next one reads of the byte source (R132). -/
theorem State.afterDrain_keeps (s : State) (a : List Byte) :
    (s.afterDrain a).cfg = s.cfg ∧ (s.afterDrain a).mode = s.mode ∧
      (s.afterDrain a).devPresent = s.devPresent ∧ (s.afterDrain a).dmaActive = s.dmaActive ∧
      (s.afterDrain a).drainPos = (s.dmaReceiveAll a).dmaPos := by
  rw [State.afterDrain, deframed_frame ((s.dmaReceiveAll a).rxBytes_deframed a),
    s.dmaReceiveAll_frame a]
  exact ⟨rfl, rfl, rfl, rfl, rfl⟩

/-- Two drains around a split deframe the bytes that one drain of all of them does (R195). -/
theorem State.afterDrain_append (s : State) (a b : List Byte) :
    (s.afterDrain a).afterDrain b = { s.afterDrain (a ++ b) with
      nqCount := s.nqCount - 1 - 1, result := some ⟨.ok, b.length⟩ } := by
  have hbytes : (s.dmaReceiveAll (a ++ b)).rxBytes (a ++ b) =
      (((s.dmaReceiveAll a).rxBytes a).dmaReceiveAll b).rxBytes b := by
    rw [State.dmaReceiveAll_append, State.rxBytes_append, State.rxBytes_dmaReceiveAll]
  have hpos : ((s.lastPos + a.length) % s.cfg.rxCap + b.length) % s.cfg.rxCap =
      (s.lastPos + (a ++ b).length) % s.cfg.rxCap := by
    rw [Nat.mod_add_mod, List.length_append, Nat.add_assoc]
  obtain ⟨hcfg, -⟩ := s.afterDrain_keeps a
  rw [State.afterDrain, hcfg, State.afterDrain, State.dmaReceiveAll_others, State.rxBytes_others,
    State.afterDrain, hbytes]
  dsimp only
  rw [hpos]

namespace readyToReceive

theorem exec_drain (h : readyToReceive s) (ha : a.length < s.cfg.rxCap) :
    exec .drain (s.dmaReceiveAll a) = .next (s.afterDrain a) :=
  (drainDeliversWhatArrived s _ a h.inv h.drained h.active h.device ha rfl).2 h.flashing

/-- The drain has moved LAST_POS to the write position, and kept what it needs. -/
theorem afterDrain (h : readyToReceive s) (ha : a.length < s.cfg.rxCap) :
    readyToReceive (s.afterDrain a) := by
  obtain ⟨-, hmode, hdev, hactive, hdrainPos⟩ := s.afterDrain_keeps a
  have hpos : (s.dmaReceiveAll a).dmaPos = (s.lastPos + a.length) % s.cfg.rxCap := by
    rw [← h.drained]
    exact h.inv.dmaReceiveAll_dmaPos h.active a
  exact {
    inv := (h.inv.dmaReceiveAll a).exec (i := .drain) rfl (h.exec_drain ha)
    drained := hdrainPos.trans hpos
    active := hactive.trans h.active
    device := hdev.trans h.device
    flashing := hmode.trans h.flashing }

end readyToReceive

/-- Settles O56: each drain deframes what arrived before it, and the bytes of the second may as well
have arrived before the first. -/
theorem drainSplitDoesNotMatter : Obligations.DrainSplitDoesNotMatter := by
  intro s a b hinv hdrained hactive hdev hmode hlen
  have h : readyToReceive s := ⟨hinv, hdrained, hactive, hdev, hmode⟩
  have hab : a.length + b.length < s.cfg.rxCap := List.length_append ▸ hlen
  have ha : a.length < s.cfg.rxCap := by omega
  obtain ⟨hcfg, -⟩ := s.afterDrain_keeps a
  have hb : b.length < (s.afterDrain a).cfg.rxCap := by rw [hcfg]; omega
  refine ⟨s.afterDrain (a ++ b), s.afterDrain a, (s.afterDrain a).afterDrain b,
    h.exec_drain hlen, h.exec_drain ha, (h.afterDrain ha).exec_drain hb, ?_⟩
  rw [s.afterDrain_append a b]

end Sys2Proof.Machine
end

section
/-! Completion records and the awaiting request (spec/43_rom_codec.md R244, spec/10_state.md R33). -/

namespace Sys2Proof.Machine

/-- R244: no record is added and an awaiting request still awaits, or the awaiting request is resolved
by one record of its own opcode. -/
def completesAtMostOne (s t : State) : Prop :=
  (t.cplLog = s.cplLog ∧ (s.pendAwait = true → t.pendAwait = true)) ∨
  (∃ c : Completion, t.cplLog = s.cplLog ++ [.item c] ∧ c.op = s.pendOp ∧
    s.pendAwait = true ∧ t.pendAwait = false)

namespace completesAtMostOne

variable {s t u : State}

/-- An operation that touches neither CPLLOG nor PEND_AWAIT. -/
theorem of_same (hlog : t.cplLog = s.cplLog) (hawait : t.pendAwait = s.pendAwait) :
    completesAtMostOne s t :=
  .inl ⟨hlog, fun h => hawait.trans h⟩

theorem of_deframed (h : deframed s t) : completesAtMostOne s t :=
  (deframed_completion h).imp_left fun ⟨hlog, hawait⟩ => ⟨hlog, fun h => hawait.trans h⟩

variable (s)

theorem sendWire (wire : List Byte) : completesAtMostOne s (s.sendWire wire) := by
  rw [s.sendWire_frame wire]
  exact of_same rfl rfl

theorem enterMode (m : Mode) : completesAtMostOne s (s.enterMode m) := by
  rw [s.enterMode_frame m]
  exact of_same rfl rfl

/-- CANCEL with a request awaiting (R164). -/
theorem resolve (hawait : s.pendAwait = true) (code : CompletionCode) (status : Byte)
    (value : Word32) : completesAtMostOne s (s.resolve code s.pendOp status value) :=
  .inr ⟨_, rfl, rfl, hawait, rfl⟩

/-- A build goes out only with nothing awaiting, so it takes no request's place (R221). -/
theorem romBuild (opcode : Byte) (payload : List Byte) (chk : Word32) :
    completesAtMostOne s (s.romBuild opcode payload chk) := by
  rcases s.romBuild_cases opcode payload chk with ⟨-, e⟩ | ⟨-, -, e⟩ | ⟨-, -, -, e⟩ |
    ⟨⟨-, -, hidle, -⟩, haccepts, e⟩ | ⟨-, -, e⟩ <;> rw [e]
  · exact of_same rfl rfl
  · exact of_same rfl rfl
  · exact of_same rfl rfl
  · rw [← s.sendWire_accepted haccepts, s.sendWire_frame]
    exact .inl ⟨rfl, fun hawait => absurd (hidle.symm.trans hawait) Bool.false_ne_true⟩
  · exact sendWire s _

/-- A drain completes a request only through the deframer (R133). -/
theorem drainNew : completesAtMostOne s s.drainNew := by
  unfold State.drainNew
  rcases ({ s with lastPos := s.drainPos } : State).route_cases s.newBytes with e | h
  · rw [e]
    exact of_same rfl rfl
  · exact (of_deframed h :)

end completesAtMostOne

/-! ### Instructions -/

/-- The next state, where there is one, has the property. -/
def nextSatisfies (P : State → Prop) (o : Host.Outcome State Fault Refusal) : Prop :=
  match o with
  | .next t => P t
  | .fault _ | .refused _ => True

namespace nextSatisfies

variable {P : State → Prop} {o o' : Host.Outcome State Fault Refusal}

theorem ite {c : Prop} [Decidable c] (hthen : c → nextSatisfies P o)
    (helse : ¬c → nextSatisfies P o') : nextSatisfies P (if c then o else o') := by
  split
  · next h => exact hthen h
  · next h => exact helse h

theorem withRing (s : State) (h : nextSatisfies P o) : nextSatisfies P (s.withRing o) :=
  ite (fun _ => h) fun _ => trivial

theorem withFrame (s : State) (h : nextSatisfies P o) : nextSatisfies P (s.withFrame o) :=
  ite (fun _ => h) fun _ => trivial

end nextSatisfies

namespace completesAtMostOne

variable (s : State)

theorem ret (code : ResultCode) (value : Nat) : completesAtMostOne s (s.ret code value) :=
  of_same rfl rfl

theorem setmode (m : Byte) : nextSatisfies (completesAtMostOne s) (execSetmode m s) := by
  unfold execSetmode
  split
  · exact ret s _ _
  · exact .ite (fun _ => ret s _ _) fun _ => .ite (fun _ => ret s _ _) fun _ => enterMode s _

theorem setdev (p : Byte) : nextSatisfies (completesAtMostOne s) (execSetdev p s) := by
  unfold execSetdev
  split <;> exact of_same rfl rfl

theorem rxsig (src : Byte) : nextSatisfies (completesAtMostOne s) (execRxsig src s) := by
  unfold execRxsig
  split <;> exact of_same rfl rfl

theorem drain : nextSatisfies (completesAtMostOne s) (execDrain s) := by
  rcases execDrain_cases s with ⟨-, e⟩ | ⟨-, -, e⟩ | ⟨-, -, e⟩ | ⟨-, -, e⟩ <;> rw [e]
  · exact of_same rfl rfl
  · exact of_same rfl rfl
  · exact .withRing s (drainNew s.takeToken)
  · exact .withRing s (.withFrame s (drainNew s.takeToken))

theorem txAppend (wire : List Byte) : completesAtMostOne s (s.txAppend wire) := by
  unfold State.txAppend
  split <;> exact of_same rfl rfl

theorem sendRequest (legal : Bool) (opcode : Byte) (payload : List Byte) (chk : Word32) :
    completesAtMostOne s (s.sendRequest legal opcode payload chk) := by
  unfold State.sendRequest
  split
  · exact ret s _ _
  · exact romBuild s _ _ _

theorem received (b : Byte) :
    nextSatisfies (completesAtMostOne s) (s.withFrame (.next (s.rxByte b))) :=
  .withFrame s (of_deframed (s.rxByte_deframed b))

/-- R244, for each instruction. -/
theorem exec (i : Instr) : nextSatisfies (completesAtMostOne s) (exec i s) := by
  cases i with
  | setmode m => exact setmode s m
  | getmode => exact ret s _ _
  | setdev p => exact setdev s p
  | cancel =>
    exact .ite (fun _ => ret s _ _) fun h =>
      resolve s ((Bool.not_eq_false _).mp h) .timeout 0x00#8 0#32
  | rddiag => exact of_same rfl rfl
  | rxsig src => exact rxsig s src
  | drain => exact drain s
  | send data =>
    exact .ite (fun _ => ret s _ _) fun _ => .ite (fun _ => ret s _ _) fun _ =>
      .ite (fun _ => ret s _ _) fun _ => sendWire s data
  | slipBegin =>
    exact .ite (fun _ => ret s _ _) fun _ => .ite (fun _ => ret s _ _) fun _ => of_same rfl rfl
  | slipByte b => exact txAppend s _
  | slipEnd =>
    exact .ite (fun _ => ret s _ _) fun _ => .ite (fun _ => of_same rfl rfl) fun _ =>
      sendWire s.closeFrame _
  | slipRxbyte b =>
    exact .ite (fun _ => ret s _ _) fun _ =>
      .withFrame s (of_deframed (s.rxByte_deframed b) :)
  | romSync => exact romBuild s _ _ _
  | romReadreg addr => exact romBuild s _ _ _
  | romFbegin size off => exact romBuild s _ _ _
  | romFdata seq data => exact .ite (fun _ => ret s _ _) fun _ => romBuild s _ _ _
  | romFend => exact romBuild s _ _ _
  | romParse frame =>
    exact .ite (fun _ => ret s _ _) fun _ => .ite (fun _ => ret s _ _) fun _ =>
      (of_deframed (s.romParse_deframed _) :)
  | flashBegin chk payload => exact sendRequest s _ _ _ _
  | flashData chk payload => exact sendRequest s _ _ _ _
  | flashEnd chk payload => exact sendRequest s _ _ _ _
  | sync chk payload => exact sendRequest s _ _ _ _
  | writeReg chk payload => trivial
  | readReg chk payload => exact sendRequest s _ _ _ _
  | response rest => exact of_deframed (s.romParse_deframed _)
  | rxEnd => exact received s _
  | rxEsc => exact received s _
  | rxEscEnd => exact received s _
  | rxEscEsc => exact received s _
  | rxOther b => exact received s b
  | txEscEnd => exact txAppend s _
  | txEscEsc => exact txAppend s _
  | txLiteral b => exact txAppend s _

end completesAtMostOne

/-- Settles O47: CANCEL and the parser resolve the awaiting request, once in a step; a build makes one
only where none awaits. -/
theorem oneCompletionPerRequest : Obligations.OneCompletionPerRequest := by
  intro s t i h
  have hexec := completesAtMostOne.exec s i
  rwa [h] at hexec

end Sys2Proof.Machine
end

section
/-! The checksum of a block (spec/43_rom_codec.md R222, R247): each byte is one XOR into the fold, in
its low eight bits. -/

namespace Sys2Proof.Machine

variable (seed : Word32)

theorem fold_cons (x : Byte) (d : List Byte) :
    fold seed (x :: d) = fold (seed ^^^ x.setWidth 32) d := rfl

/-- A byte joins the fold by one XOR, wherever in the block it stands. -/
theorem fold_insert (a b : List Byte) (x : Byte) :
    fold seed (a ++ [x] ++ b) = fold seed (a ++ b) ^^^ x.setWidth 32 := by
  have hbyte : fold (fold seed a) [x] = fold seed a ^^^ x.setWidth 32 := rfl
  rw [fold_append, fold_append, fold_append, hbyte, fold_seed, fold_seed (fold seed a)]
  ac_rfl

theorem setWidth_byte_injective {x y : Byte} (h : x.setWidth 32 = y.setWidth 32) : x = y := by
  have hlow := congrArg (BitVec.setWidth 8) h
  rwa [BitVec.setWidth_setWidth_of_le _ (by decide), BitVec.setWidth_setWidth_of_le _ (by decide),
    BitVec.setWidth_eq, BitVec.setWidth_eq] at hlow

/-- R247: the fold of a block determines each of its bytes, given the others. -/
theorem fold_insert_inj (a b : List Byte) (x y : Byte) :
    fold seed (a ++ [x] ++ b) = fold seed (a ++ [y] ++ b) ↔ x = y := by
  rw [fold_insert, fold_insert, BitVec.xor_right_inj]
  exact ⟨setWidth_byte_injective, congrArg _⟩

/-- R247: one difference in two bytes cancels. -/
theorem fold_two_changes (a b d : List Byte) (x y z : Byte) :
    fold seed (a ++ [x ^^^ z] ++ b ++ [y ^^^ z] ++ d) = fold seed (a ++ [x] ++ b ++ [y] ++ d) := by
  have hsplit (x y : Byte) : fold seed (a ++ [x] ++ b ++ [y] ++ d) =
      fold seed (a ++ (b ++ d)) ^^^ x.setWidth 32 ^^^ y.setWidth 32 := by
    rw [fold_insert, List.append_assoc, fold_insert]
  have hcancel (u v w : Word32) (r : Word32) : r ^^^ (u ^^^ w) ^^^ (v ^^^ w) = r ^^^ u ^^^ v :=
    calc r ^^^ (u ^^^ w) ^^^ (v ^^^ w)
      _ = r ^^^ u ^^^ v ^^^ (w ^^^ w) := by ac_rfl
      _ = r ^^^ u ^^^ v := by rw [BitVec.xor_self, BitVec.xor_zero]
  rw [hsplit, hsplit, BitVec.setWidth_xor, BitVec.setWidth_xor, hcancel]

/-- R247: the fold ignores the order of the bytes. -/
theorem fold_perm {d d' : List Byte} (h : d.Perm d') : fold seed d = fold seed d' := by
  have hcomm : RightCommutative fun (acc : Word32) (b : Byte) => acc ^^^ b.setWidth 32 :=
    ⟨fun _ _ _ => by ac_rfl⟩
  exact h.foldl_eq seed

/-- R222: bytes are folded into bits 7 to 0, so the bits above are the seed's. -/
theorem fold_high (d : List Byte) :
    (fold seed d).extractLsb' 8 24 = seed.extractLsb' 8 24 := by
  induction d generalizing seed with
  | nil => rfl
  | cons x d ih =>
    have hbyte : (x.setWidth 32).extractLsb' 8 24 = 0#24 := by ext i hi; simp
    rw [fold_cons, ih, BitVec.extractLsb'_xor, hbyte, BitVec.xor_zero]

/-- Settles O51: in a fold each byte is one XOR, in the low eight bits. -/
theorem checksumProperties : Obligations.ChecksumProperties := by
  intro seed a b d d' x y z
  exact ⟨rfl, (fold_two_changes seed a b d x y z).symm, fold_insert_inj seed a b x y,
    fold_perm seed, fold_high seed d⟩

end Sys2Proof.Machine
end

section
/-! The common build sequence (spec/43_rom_codec.md R221): its checks, its one UART write, and the same
write made by SLIP_FRAME (spec/30_encoding.md R104). -/

namespace Sys2Proof.Machine

variable {s : State} {i : Instr} {opcode : Byte} {payload : List Byte} {chk : Word32}

/-! ### The checks -/

theorem State.romBuild_noDevice (hdev : s.devPresent = false) :
    s.romBuild opcode payload chk = s.raise .noDevice := by
  rw [State.romBuild, if_pos hdev]

theorem State.romBuild_notFlashing (hdev : s.devPresent = true) (hmode : s.mode ≠ .flashing) :
    s.romBuild opcode payload chk = s.raise .sequencing := by
  simp [State.romBuild, hdev, hmode]

theorem State.romBuild_busy (hdev : s.devPresent = true) (hmode : s.mode = .flashing)
    (hbusy : s.pendAwait = true ∨ s.txOpen = true) :
    s.romBuild opcode payload chk = s.raise .busy := by
  simp [State.romBuild, hdev, hmode, hbusy]

/-! ### The write -/

/-- R221: past the checks a build is one write of the wire frame, and the request awaits if the UART
accepts it. -/
theorem State.romBuild_of_canBuild (h : s.canBuild) :
    s.romBuild opcode payload chk =
      if s.accepts (requestFrame opcode payload chk) then
        { s.sendWire (requestFrame opcode payload chk) with pendAwait := true, pendOp := opcode }
      else s.sendWire (requestFrame opcode payload chk) := by
  obtain ⟨hdev, hmode, hidle, hclosed⟩ := h
  simp [State.romBuild, hdev, hmode, hidle, hclosed]

theorem State.romBuild_accepted (h : s.canBuild)
    (haccepts : s.accepts (requestFrame opcode payload chk)) :
    s.romBuild opcode payload chk =
      { s.sentOk (requestFrame opcode payload chk) with pendAwait := true, pendOp := opcode } := by
  rw [State.romBuild_of_canBuild h, if_pos haccepts, s.sendWire_accepted haccepts]

theorem State.romBuild_failed (h : s.canBuild)
    (hfails : ¬s.accepts (requestFrame opcode payload chk)) :
    s.romBuild opcode payload chk = s.sendWire (requestFrame opcode payload chk) := by
  rw [State.romBuild_of_canBuild h, if_neg hfails]

/-- Settles O29: the operation that makes a request runs the common build sequence on it. -/
theorem buildChecksInOrder : Obligations.BuildChecksInOrder := by
  intro s i opcode payload chk hbuild
  obtain ⟨-, hexec⟩ := buildRequest_some hbuild
  rw [hexec]
  refine ⟨fun hdev => ?noDevice, fun hdev hmode => ?sequencing, fun hdev hmode hbusy => ?busy,
    fun hcan haccepts => ?accepted, fun hcan hfails => ?failed⟩
  case noDevice => rw [State.romBuild_noDevice hdev]; rfl
  case sequencing => rw [State.romBuild_notFlashing hdev hmode]; rfl
  case busy => rw [State.romBuild_busy hdev hmode hbusy]; rfl
  case accepted => rw [State.romBuild_accepted hcan haccepts]
  case failed =>
    obtain ⟨k, hk, hsent⟩ := s.sendWire_failed hfails
    exact ⟨k, hk, by rw [State.romBuild_failed hcan hfails, hsent]⟩

/-- With no frame open, closing the frame changes nothing (R37 item 6). -/
theorem State.closeFrame_of_empty (hclosed : s.txOpen = false) (hempty : s.txPend = []) :
    s.closeFrame = s := by
  rw [State.closeFrame_of_closed hclosed, ← hempty]

/-- Settles O54: SLIP_FRAME and the build write the same wire frame from the same state. -/
theorem romBuildIsOneSlipFrame : Obligations.RomBuildIsOneSlipFrame := by
  intro s i opcode payload chk hcan hempty hbuild
  obtain ⟨-, hexec⟩ := buildRequest_some hbuild
  have ⟨hdev, hmode, _, hclosed⟩ := hcan
  refine ⟨s.sendWire (requestFrame opcode payload chk), ?_, ?_⟩
  · rw [runPseudo_slipFrame hdev hmode hclosed, State.closeFrame_of_empty hclosed hempty,
      requestFrame]
  · rw [hexec, State.romBuild_of_canBuild hcan]

end Sys2Proof.Machine
end

section
/-! The request each ROM build sends (spec/43_rom_codec.md R223 to R228, spec/30_encoding.md R97), from
the operation and from the packet row of the same request (log 6). -/

namespace Sys2Proof.Machine

/-! ### Words of a payload -/

section Words

variable {cfg : Params}

theorem wordBytes_be (h : cfg.wordOrder = .be) (v : Word32) : wordBytes cfg v = be32 v := by
  rw [wordBytes, h, payloadWord]

theorem wordBytes_le (h : cfg.wordOrder = .le) (v : Word32) : wordBytes cfg v = le32 v := by
  rw [wordBytes, h, payloadWord]

/-- There is one way to lay out a word in the order of the parameters (R9, R61). -/
theorem eq_wordBytes {bytes : List Byte} {v : Word32}
    (hbe : cfg.wordOrder = .be → bytes = be32 v) (hle : cfg.wordOrder = .le → bytes = le32 v) :
    bytes = wordBytes cfg v := by
  cases horder : cfg.wordOrder with
  | be => rw [hbe horder, wordBytes_be horder]
  | le => rw [hle horder, wordBytes_le horder]

theorem laysOutWords_eq_wordBytes {word : Word32 → List Byte}
    (h : laysOutWords cfg.wordOrder word) : word = wordBytes cfg := by
  obtain ⟨hbe, hle⟩ := h
  funext v
  exact eq_wordBytes (fun horder => hbe horder v) fun horder => hle horder v

@[simp] theorem flashBeginPayload_length (size off : Word32) :
    (flashBeginPayload cfg size off).length = 16 := by
  simp [flashBeginPayload]

end Words

/-! ### The two ways to send a request -/

section Sending

variable {s : State} {i r : Instr} {opcode : Byte} {payload : List Byte} {chk : Word32}

/-- R92: the wire frame of a request whose checksum field is 0. -/
theorem requestFrame_chk_zero (opcode : Byte) (payload : List Byte) :
    requestFrame opcode payload 0#32 = slipFrame ([0x00#8, opcode] ++
      le16 (BitVec.ofNat 16 payload.length) ++ [0x00#8, 0x00#8, 0x00#8, 0x00#8] ++ payload) := by
  have hchk : le32 0#32 = [0x00#8, 0x00#8, 0x00#8, 0x00#8] := by decide
  rw [requestFrame, requestPacket, hchk]

/-- The operation that makes a request and the packet row of the request both send it (R221;
log 6). -/
theorem exec_build_and_request (hcan : s.canBuild)
    (hbuild : buildRequest s.cfg i = some (opcode, payload, chk))
    (hrequest : requestOf opcode chk payload = some r)
    (haccepts : s.accepts (requestFrame opcode payload chk)) :
    exec i s = .next { s.sentOk (requestFrame opcode payload chk) with
      pendAwait := true, pendOp := opcode } ∧
    exec r s = .next { s.sentOk (requestFrame opcode payload chk) with
      pendAwait := true, pendOp := opcode } := by
  obtain ⟨hbuilt, hexec⟩ := buildRequest_some hbuild
  rw [hexec, exec_request_built hrequest hbuilt, State.romBuild_accepted hcan haccepts]
  exact ⟨rfl, rfl⟩

end Sending

/-! ### SYNC -/

/-- Settles O24. -/
theorem syncRequestGoesOut : Obligations.SyncRequestGoesOut := by
  rintro s _ _ hcan rfl rfl haccepts
  rw [← requestFrame_chk_zero] at haccepts ⊢
  exact exec_build_and_request hcan (i := .romSync) rfl rfl haccepts

/-! ### READ_REG -/

/-- Settles O25: the payload is the address, four bytes in either order. -/
theorem readRegRequestGoesOut : Obligations.ReadRegRequestGoesOut := by
  rintro s addr word _ hcan hbe hle rfl haccepts
  obtain rfl := eq_wordBytes hbe hle
  have hframe : requestFrame 0x0A#8 (readRegPayload s.cfg addr) 0#32 = slipFrame ([0x00#8, 0x0A#8,
      0x04#8, 0x00#8, 0x00#8, 0x00#8, 0x00#8, 0x00#8] ++ wordBytes s.cfg addr) := by
    rw [requestFrame_chk_zero, readRegPayload, wordBytes_length]
    rfl
  rw [← hframe] at haccepts ⊢
  exact exec_build_and_request hcan (i := .romReadreg addr) rfl rfl haccepts

/-! ### FLASH_BEGIN -/

/-- Settles O26: the payload is four words, 16 bytes. -/
theorem flashBeginRequestGoesOut : Obligations.FlashBeginRequestGoesOut := by
  rintro s size off word _ _ hcan hword rfl rfl haccepts
  obtain rfl := laysOutWords_eq_wordBytes hword
  have hframe : requestFrame 0x02#8 (flashBeginPayload s.cfg size off) 0#32 = slipFrame ([0x00#8,
      0x02#8, 0x10#8, 0x00#8, 0x00#8, 0x00#8, 0x00#8, 0x00#8] ++
      flashBeginPayload s.cfg size off) := by
    rw [requestFrame_chk_zero, flashBeginPayload_length]
    rfl
  rw [flashBeginPayload, ceilDiv] at hframe
  rw [← hframe] at haccepts ⊢
  exact exec_build_and_request hcan (i := .romFbegin size off) rfl rfl haccepts

/-! ### FLASH_DATA -/

/-- ROM_FDATA's block is of 1 to FLASH_BLOCK_SIZE bytes (R101, R226). -/
theorem legalBlock_iff {cfg : Params} {data : List Byte} :
    legalBlock cfg data = true ↔ 1 ≤ data.length ∧ data.length ≤ cfg.flashBlockSize :=
  decide_eq_true_iff

theorem exec_romFdata_illegal {s : State} {data : List Byte} (h : legalBlock s.cfg data = false)
    (seq : Word32) : exec (.romFdata seq data) s = .next (s.raise .badArg) := by
  rw [exec_romFdata_eq, execRomFdata, if_pos h]

/-- Settles O27: the block is checked first; a legal one goes out behind its two words and padding. -/
theorem flashDataRequestGoesOut : Obligations.FlashDataRequestGoesOut := by
  intro s seq data word payload wire
  refine ⟨fun hlen => ?refused, ?sent⟩
  case refused =>
    have hblock : legalBlock s.cfg data = false := by
      rw [Bool.eq_false_iff, ne_eq, legalBlock_iff]
      omega
    exact exec_romFdata_illegal hblock seq
  case sent =>
    rintro hpos hmax hcan hword rfl rfl haccepts
    obtain rfl := laysOutWords_eq_wordBytes hword
    exact exec_build_and_request hcan
      (buildRequest_romFdata seq (legalBlock_iff.mpr ⟨hpos, hmax⟩)) rfl haccepts

/-! ### FLASH_END -/

/-- Settles O28. -/
theorem flashEndRequestGoesOut : Obligations.FlashEndRequestGoesOut := by
  rintro s word _ _ hcan hword rfl rfl haccepts
  obtain rfl := laysOutWords_eq_wordBytes hword
  rw [← requestFrame_chk_zero] at haccepts ⊢
  exact exec_build_and_request hcan (i := .romFend) rfl rfl haccepts

/-! ### WRITE_REG -/

/-- Settles O31: the row's meaning is the refusal. -/
theorem writeRegHasNoBuilder : Obligations.WriteRegHasNoBuilder := by
  intro s chk payload
  rw [exec_writeReg_eq, execWriteReg]

end Sys2Proof.Machine
end

section
/-! Responses (spec/43_rom_codec.md R240 to R245): what a packet does to the awaiting request, and
ROM_PARSE as the hand-off of a packet inside its delimiters. -/

namespace Sys2Proof.Machine

variable {s : State} {p frame : List Byte}

/-! ### The packet before it is matched -/

/-- R241, R242: a packet without a status byte is malformed. -/
theorem State.romParse_short (h : p.length < s.cfg.statusOffset + 1) :
    s.romParse p = s.malformed := by
  rw [State.romParse, if_pos (.inl h)]

section Matched

variable (hlen : s.cfg.statusOffset + 1 ≤ p.length) (hdir : p.getD 0 0x00#8 = 0x01#8)
include hlen hdir

/-- R243: a response that answers no awaiting request sets LATE alone. -/
theorem State.romParse_unmatched (h : s.pendAwait = false ∨ p.getD 1 0x00#8 ≠ s.pendOp) :
    s.romParse p = { s with diag := s.diag ||| 8#4 } := by
  rw [State.romParse, if_neg (not_or.mpr ⟨Nat.not_lt.mpr hlen, not_not.mpr hdir⟩), if_pos h]
  rfl

/-- R241: a response that answers the awaiting request resolves it. -/
theorem State.romParse_awaited (hawait : s.pendAwait = true) (hop : p.getD 1 0x00#8 = s.pendOp) :
    s.romParse p = s.resolveResponse p := by
  rw [State.romParse, if_neg (not_or.mpr ⟨Nat.not_lt.mpr hlen, not_not.mpr hdir⟩),
    if_neg (not_or.mpr ⟨by simp [hawait], not_not.mpr hop⟩)]

end Matched

/-! ### The awaited response (R241) -/

theorem State.resolve_eq (s : State) (code : CompletionCode) (op status : Byte) (value : Word32) :
    s.resolve code op status value = { s with
      pendAwait := false, cplLog := s.cplLog ++ [.item ⟨code, op, status, value⟩] } := rfl

section Awaited

variable (hop : p.getD 1 0x00#8 = s.pendOp)
include hop

/-- The response's opcode is PEND_OP, so it is the record's. -/
theorem State.resolveResponse_of_op : s.resolveResponse p =
    if p.getD s.cfg.statusOffset 0x00#8 ≠ 0x00#8 then
      s.resolve .statusFail s.pendOp (p.getD s.cfg.statusOffset 0x00#8) 0#32
    else if s.pendOp = 0x0A#8 ∧ p.length < s.cfg.valueOffset + 4 then
      (s.setDiag diagProto).resolve .protocol s.pendOp 0x00#8 0#32
    else if s.pendOp = 0x0A#8 then
      s.resolve .ok s.pendOp 0x00#8 (rdle32 p s.cfg.valueOffset)
    else s.resolve .ok s.pendOp 0x00#8 0#32 := by
  simp only [State.resolveResponse, hop]

theorem State.resolveResponse_status (hstatus : p.getD s.cfg.statusOffset 0x00#8 ≠ 0x00#8) :
    s.resolveResponse p =
      s.resolve .statusFail s.pendOp (p.getD s.cfg.statusOffset 0x00#8) 0#32 := by
  rw [State.resolveResponse_of_op hop, if_pos hstatus]

variable (hstatus : p.getD s.cfg.statusOffset 0x00#8 = 0x00#8)
include hstatus

theorem State.resolveResponse_noValue (hread : s.pendOp = 0x0A#8)
    (hlen : p.length < s.cfg.valueOffset + 4) :
    s.resolveResponse p = (s.setDiag diagProto).resolve .protocol 0x0A#8 0x00#8 0#32 := by
  rw [State.resolveResponse_of_op hop, if_neg (not_not.mpr hstatus), if_pos ⟨hread, hlen⟩, hread]

theorem State.resolveResponse_value (hread : s.pendOp = 0x0A#8)
    (hlen : s.cfg.valueOffset + 4 ≤ p.length) :
    s.resolveResponse p = s.resolve .ok 0x0A#8 0x00#8 (rdle32 p s.cfg.valueOffset) := by
  rw [State.resolveResponse_of_op hop, if_neg (not_not.mpr hstatus),
    if_neg fun ⟨_, hshort⟩ => Nat.not_lt.mpr hlen hshort, if_pos hread, hread]

theorem State.resolveResponse_ok (hother : s.pendOp ≠ 0x0A#8) :
    s.resolveResponse p = s.resolve .ok s.pendOp 0x00#8 0#32 := by
  rw [State.resolveResponse_of_op hop, if_neg (not_not.mpr hstatus), if_neg fun ⟨h, _⟩ => hother h,
    if_neg hother]

end Awaited

/-- Settles O32: too short, unmatched, or the awaited response, and then by its status, its opcode and
its length. -/
theorem responseResolvesOrIsDiscarded : Obligations.ResponseResolvesOrIsDiscarded := by
  rintro s rest p rfl
  have hexec : exec (.response rest) s = .next (s.romParse (0x01#8 :: rest)) := rfl
  have hdir : (0x01#8 :: rest).getD 0 0x00#8 = 0x01#8 := rfl
  rw [hexec]
  refine ⟨fun hshort => ⟨fun hawait => ?shortAwaiting, fun hidle => ?shortIdle⟩,
    fun hlen => ⟨fun hunmatched => ?unmatched, fun hawait hop => ⟨fun hstatus => ?status,
      fun hstatus => ⟨fun hread hvalue => ?noValue, fun hread hvalue => ?value,
        fun hother => ?ok⟩⟩⟩⟩
  case shortAwaiting => rw [State.romParse_short hshort, State.malformed_awaiting hawait]
  case shortIdle => rw [State.romParse_short hshort, State.malformed_idle hidle]
  case unmatched => rw [State.romParse_unmatched hlen hdir hunmatched]
  all_goals rw [State.romParse_awaited hlen hdir hawait hop]
  case status => rw [State.resolveResponse_status hop hstatus, State.resolve_eq]
  case noValue => rw [State.resolveResponse_noValue hop hstatus hread hvalue]; rfl
  case value => rw [State.resolveResponse_value hop hstatus hread hvalue]; rfl
  case ok => rw [State.resolveResponse_ok hop hstatus hother, State.resolve_eq]

/-! ### ROM_PARSE (R245) -/

theorem legalFrame_iff :
    legalFrame frame = true ↔ 2 ≤ frame.length ∧ frame.length ≤ 128 ∧
      frame.head? = some 0xC0#8 ∧ frame.getLast? = some 0xC0#8 :=
  decide_eq_true_iff

/-- A packet between two delimiters is a legal frame, up to FRAME_CAP. -/
theorem legalFrame_delimited (hlen : (0xC0#8 :: (p ++ [0xC0#8])).length ≤ 128) :
    legalFrame (0xC0#8 :: (p ++ [0xC0#8])) = true := by
  rw [legalFrame_iff]
  exact ⟨by simp, hlen, rfl, by rw [← List.cons_append, List.getLast?_concat]⟩

/-- R240: the packet of a whole frame is what stands between its delimiters. -/
theorem framePacket_delimited (p : List Byte) :
    framePacket (0xC0#8 :: (p ++ [0xC0#8])) false = p := by
  simp [framePacket]

theorem exec_romParse_illegal (h : legalFrame frame = false) :
    exec (.romParse frame) s = .next (s.raise .badArg) := by
  rw [exec_romParse_eq, execRomParse, if_pos h]

theorem exec_romParse_notFlashing (h : legalFrame frame = true) (hmode : s.mode ≠ .flashing) :
    exec (.romParse frame) s = .next (s.raise .sequencing) := by
  rw [exec_romParse_eq, execRomParse, if_neg (by simp [h]), if_pos hmode]

theorem exec_romParse_flashing (h : legalFrame frame = true) (hmode : s.mode = .flashing) :
    exec (.romParse frame) s = .next ((s.romParse (framePacket frame false)).ret .ok 0) := by
  rw [exec_romParse_eq, execRomParse, if_neg (by simp [h]), if_neg (not_not.mpr hmode)]
  rfl

/-- Settles O33: a legal frame is parsed as its packet, which a RESPONSE is with direction 0x01 and a
malformed one without. -/
theorem romParseHandsOffItsFrame : Obligations.RomParseHandsOffItsFrame := by
  intro s frame p rest
  refine ⟨rfl, fun hbad => ?illegal, ?legal⟩
  case illegal =>
    refine exec_romParse_illegal (Bool.eq_false_iff.mpr fun hlegal => ?_)
    obtain ⟨hmin, hmax, hhead, hlast⟩ := legalFrame_iff.mp hlegal
    obtain h | h | h | h := hbad
    · omega
    · omega
    · exact h hhead
    · exact h hlast
  case legal =>
    rintro rfl hlen
    have hlegal := legalFrame_delimited hlen
    have hparse (hmode : s.mode = .flashing) :
        exec (.romParse (0xC0#8 :: (p ++ [0xC0#8]))) s = .next ((s.romParse p).ret .ok 0) := by
      rw [exec_romParse_flashing hlegal hmode, framePacket_delimited]
    refine ⟨exec_romParse_notFlashing hlegal, fun hmode hp => ⟨s.romParse p, ?response, hparse hmode⟩,
      fun hmode hp => ⟨fun hawait => ?awaiting, fun hidle => ?idle⟩⟩
    case response => rw [hp]; rfl
    case awaiting =>
      rw [hparse hmode, State.romParse_notResponse hp, State.malformed_awaiting hawait]
      rfl
    case idle =>
      rw [hparse hmode, State.romParse_notResponse hp, State.malformed_idle hidle]
      rfl

end Sys2Proof.Machine
end

section
/-! What an operation that ends with an error leaves alone (spec/60_exceptions.md R302, R303). -/

namespace Sys2Proof.Machine

/-- R303: if the result left in `t` is an error, and not that of a UART write that failed part way
(R302), then `t` is `s` with that result. -/
def failsCleanly (s t : State) : Prop :=
  ∀ r : OpResult, t.result = some r → r.code ≠ .ok → r.code ≠ .uartWriteFail →
    t = { s with result := some r }

namespace failsCleanly

variable (s : State)

/-- R303: an error delivered by itself has no effect but the result. -/
theorem ret (code : ResultCode) (value : Nat) : failsCleanly s (s.ret code value) := by
  intro r hr _ _
  rw [← hr]
  rfl

variable {s} {t : State}

/-- The results that R303 does not speak of. -/
theorem of_code {code : ResultCode} {value : Nat} (hresult : t.result = some ⟨code, value⟩)
    (hcode : code = .ok ∨ code = .uartWriteFail) : failsCleanly s t := by
  intro r hr hok hfail
  obtain rfl := Option.some.inj (hresult.symm.trans hr)
  exact absurd hcode (not_or.mpr ⟨hok, hfail⟩)

theorem of_ok {value : Nat} (hresult : t.result = some ⟨.ok, value⟩) : failsCleanly s t :=
  of_code hresult (.inl rfl)

variable (s)

/-- R131, R302: a write ends with OK or UART_WRITE_FAIL. -/
theorem sendWire (wire : List Byte) : failsCleanly s (s.sendWire wire) := by
  by_cases haccepts : s.accepts wire
  · rw [s.sendWire_accepted haccepts]
    exact of_ok rfl
  · obtain ⟨k, -, hsent⟩ := s.sendWire_failed haccepts
    rw [hsent]
    exact of_code rfl (.inr rfl)

/-- R221: the checks of a build come before its write. -/
theorem romBuild (opcode : Byte) (payload : List Byte) (chk : Word32) :
    failsCleanly s (s.romBuild opcode payload chk) := by
  rcases s.romBuild_cases opcode payload chk with ⟨-, e⟩ | ⟨-, -, e⟩ | ⟨-, -, -, e⟩ |
    ⟨-, -, e⟩ | ⟨-, -, e⟩ <;> rw [e]
  · exact ret s _ _
  · exact ret s _ _
  · exact ret s _ _
  · exact of_ok rfl
  · exact sendWire s _

theorem sendRequest (legal : Bool) (opcode : Byte) (payload : List Byte) (chk : Word32) :
    failsCleanly s (s.sendRequest legal opcode payload chk) := by
  unfold State.sendRequest
  split
  · exact ret s _ _
  · exact romBuild s _ _ _

theorem txAppend (wire : List Byte) : failsCleanly s (s.txAppend wire) := by
  unfold State.txAppend
  split
  · exact ret s _ _
  · exact of_ok rfl

theorem setmode (m : Byte) : nextSatisfies (failsCleanly s) (execSetmode m s) := by
  unfold execSetmode
  split
  · exact ret s _ _
  · exact .ite (fun _ => ret s _ _) fun _ => .ite (fun _ => ret s _ _) fun _ => of_ok rfl

theorem setdev (p : Byte) : nextSatisfies (failsCleanly s) (execSetdev p s) := by
  unfold execSetdev
  split
  · exact ret s _ _
  · exact of_ok rfl

theorem rxsig (src : Byte) : nextSatisfies (failsCleanly s) (execRxsig src s) := by
  unfold execRxsig
  split
  · exact ret s _ _
  · exact of_ok rfl

/-- R303, for each instruction. DRAIN spends its token and SLIP_END drops its frame in the outcomes
with an error too (R132, R184), and the rows of RESPONSE and of a received byte leave the result of
the operation before them. -/
theorem of_exec (i : Instr) (hrxByte : i.format ≠ .rxByte) (hresponse : i.format ≠ .romResponse)
    (hdrain : i ≠ .drain) (hslipEnd : i ≠ .slipEnd) :
    nextSatisfies (failsCleanly s) (exec i s) := by
  cases i with
  | setmode m => exact setmode s m
  | getmode => exact ret s _ _
  | setdev p => exact setdev s p
  | cancel => exact .ite (fun _ => ret s _ _) fun _ => of_ok rfl
  | rddiag => exact of_ok rfl
  | rxsig src => exact rxsig s src
  | drain => exact absurd rfl hdrain
  | send data =>
    exact .ite (fun _ => ret s _ _) fun _ => .ite (fun _ => ret s _ _) fun _ =>
      .ite (fun _ => ret s _ _) fun _ => sendWire s data
  | slipBegin =>
    exact .ite (fun _ => ret s _ _) fun _ => .ite (fun _ => ret s _ _) fun _ => of_ok rfl
  | slipByte b => exact txAppend s _
  | slipEnd => exact absurd rfl hslipEnd
  | slipRxbyte b => exact .ite (fun _ => ret s _ _) fun _ => .withFrame s (of_ok rfl)
  | romSync => exact romBuild s _ _ _
  | romReadreg addr => exact romBuild s _ _ _
  | romFbegin size off => exact romBuild s _ _ _
  | romFdata seq data => exact .ite (fun _ => ret s _ _) fun _ => romBuild s _ _ _
  | romFend => exact romBuild s _ _ _
  | romParse frame =>
    exact .ite (fun _ => ret s _ _) fun _ => .ite (fun _ => ret s _ _) fun _ => of_ok rfl
  | flashBegin chk payload => exact sendRequest s _ _ _ _
  | flashData chk payload => exact sendRequest s _ _ _ _
  | flashEnd chk payload => exact sendRequest s _ _ _ _
  | sync chk payload => exact sendRequest s _ _ _ _
  | writeReg chk payload => trivial
  | readReg chk payload => exact sendRequest s _ _ _ _
  | response rest => exact absurd rfl hresponse
  | rxEnd | rxEsc | rxEscEnd | rxEscEsc | rxOther b => exact absurd rfl hrxByte
  | txEscEnd => exact txAppend s _
  | txEscEsc => exact txAppend s _
  | txLiteral b => exact txAppend s _

end failsCleanly

/-- Settles O46: an operation raises its error before it writes anything, or ends with OK or
UART_WRITE_FAIL. -/
theorem failingOperationChangesNothing : Obligations.FailingOperationChangesNothing := by
  intro s t i r h hrxByte hresponse hdrain hslipEnd
  have hexec := failsCleanly.of_exec s i hrxByte hresponse hdrain hslipEnd
  rw [h] at hexec
  exact hexec r

end Sys2Proof.Machine
end

section
/-! The interrupt agent (spec/60_exceptions.md R310 to R312): what a delivery does, and that two of
them commute. -/

namespace Sys2Proof.Machine

variable {s : State} {src a b : IrqSource}

/-! ### One delivery -/

/-- R311: a source that is pending and enabled is cleared and runs RXSIG. -/
theorem State.deliver_of_deliverable (h : s.deliverable src = true) :
    s.deliver src = (s.clearIrq src).postToken.ret .ok 0 := by
  rw [State.deliver, if_pos h]

/-- Any other source has no step to take (log 17). -/
theorem State.deliver_of_not_deliverable (h : s.deliverable src = false) : s.deliver src = s := by
  rw [State.deliver, if_neg (by simp [h])]

/-- The delivery of a source is the RXSIG of a byte that names one (R101, R310). -/
theorem State.deliver_eq_rxsig {operand : Byte} (hoperand : operand.toNat ≤ 2)
    (h : s.deliverable src = true) :
    .next (s.deliver src) = exec (.rxsig operand) (s.clearIrq src) := by
  rw [exec_rxsig_legal hoperand, State.deliver_of_deliverable h]

/-- IDLE waits while it is not pending or disabled (R310). -/
theorem State.deliverable_idle_eq_false_iff :
    s.deliverable .idle = false ↔ s.irqIdle = false ∨ s.idleIrqEn = false :=
  Bool.and_eq_false_iff

/-- Settles O35, by whether the source is deliverable. -/
theorem interruptDeliveryRunsRxsig : Obligations.InterruptDeliveryRunsRxsig := by
  intro s src tail
  refine ⟨fun hport => ?deliver, step_of_port_agent, fun hport => ?drop⟩
  case deliver =>
    rw [step_of_port_agent hport]
    refine ⟨?ht, ?tc, ?idle, ?noHt, ?noTc, ?noIdle⟩
    case ht =>
      rintro rfl hpending
      exact State.deliver_eq_rxsig (by decide) hpending
    case tc =>
      rintro rfl hpending
      exact State.deliver_eq_rxsig (by decide) hpending
    case idle =>
      rintro rfl hpending henabled
      exact State.deliver_eq_rxsig (by decide) (Bool.and_eq_true_iff.mpr ⟨hpending, henabled⟩)
    case noHt =>
      rintro rfl hclear
      exact congrArg _ (State.deliver_of_not_deliverable hclear)
    case noTc =>
      rintro rfl hclear
      exact congrArg _ (State.deliver_of_not_deliverable hclear)
    case noIdle =>
      rintro rfl hwaits
      exact congrArg _ (State.deliver_of_not_deliverable
        (State.deliverable_idle_eq_false_iff.mpr hwaits))
  case drop =>
    rw [step_of_port_agent hport]
    exact ⟨fun hdisabled => congrArg _ (if_pos hdisabled),
      fun henabled => congrArg _ (if_neg (by simp [henabled]))⟩

/-! ### Two deliveries -/

/-- Clearing one source leaves every other as deliverable as it was (R311). -/
theorem State.deliverable_clearIrq_ne (hne : a ≠ b) :
    (s.clearIrq a).deliverable b = s.deliverable b := by
  cases a with
  | ht => cases b with
    | ht => exact absurd rfl hne
    | tc | idle => rfl
  | tc => cases b with
    | tc => exact absurd rfl hne
    | ht | idle => rfl
  | idle => cases b with
    | idle => exact absurd rfl hne
    | ht | tc => rfl

/-- R37 item 4: where IDLE_IRQ_EN already is what RXSIG re-arms it to, RXSIG neither enables nor
disables a source. -/
theorem State.deliverable_postToken (harmed : s.idleIrqEn = true ↔ s.mode = .running) :
    s.postToken.deliverable b = s.deliverable b := by
  have hflag : s.mode.armsIdleIrq = s.idleIrqEn :=
    Bool.eq_iff_iff.mpr ((armsIdleIrq_iff s.mode).trans harmed.symm)
  cases b with
  | ht | tc => rfl
  | idle => exact congrArg (s.irqIdle && ·) hflag

/-- Delivering one source makes no other deliverable, and keeps none from being delivered. -/
theorem State.deliverable_deliver_ne (harmed : s.idleIrqEn = true ↔ s.mode = .running)
    (hne : a ≠ b) : (s.deliver a).deliverable b = s.deliverable b := by
  rcases s.deliver_cases a with ⟨-, e⟩ | ⟨-, e⟩ <;> rw [e]
  have hcleared : (s.clearIrq a).idleIrqEn = true ↔ (s.clearIrq a).mode = .running := by
    rw [s.clearIrq_frame]
    exact harmed
  exact (State.deliverable_postToken hcleared).trans (State.deliverable_clearIrq_ne hne)

/-- Both deliveries clear their own bit and post a token; the tokens cannot be told apart (R26). -/
theorem State.rxsig_clearIrq_comm (s : State) (a b : IrqSource) :
    (((s.clearIrq a).postToken.ret .ok 0).clearIrq b).postToken.ret .ok 0 =
      (((s.clearIrq b).postToken.ret .ok 0).clearIrq a).postToken.ret .ok 0 := by
  cases a <;> cases b <;> rfl

/-- Settles O59: whether each source is delivered does not depend on the other, and two that are both
delivered commute. -/
theorem interruptOrderIsUnobservable : Obligations.InterruptOrderIsUnobservable := by
  intro s a b harmed
  obtain rfl | hne := eq_or_ne a b
  · rfl
  have hb := State.deliverable_deliver_ne harmed hne
  have ha := State.deliverable_deliver_ne harmed hne.symm
  cases hda : s.deliverable a with
  | false =>
    rw [State.deliver_of_not_deliverable hda, State.deliver_of_not_deliverable (ha.trans hda)]
  | true =>
    cases hdb : s.deliverable b with
    | false =>
      rw [State.deliver_of_not_deliverable hdb, State.deliver_of_not_deliverable (hb.trans hdb)]
    | true =>
      rw [State.deliver_of_deliverable (hb.trans hdb), State.deliver_of_deliverable (ha.trans hda),
        State.deliver_of_deliverable hda, State.deliver_of_deliverable hdb,
        s.rxsig_clearIrq_comm a b]

end Sys2Proof.Machine
end

section
/-! A ring overrun (spec/70_reset_and_hazards.md R350, spec/40_byte_source.md R136): what one drain
delivers once the arrivals may have gone round the ring. -/

namespace Sys2Proof.Machine

variable {s : State}

/-- However many bytes have arrived since everything was drained, DRAIN's range starts at LAST_POS
and forgets the full rounds: the write position is the same after each of them (R64, R136). -/
theorem Inv.newBytes_dmaReceiveAll_eq_ringRange (h : Inv s) (hd : s.drained)
    (ha : s.dmaActive = true) (bs : List Byte) :
    (s.dmaReceiveAll bs).newBytes = (s.dmaReceiveAll bs).rxbuf.ringRange s.cfg.rxCap s.lastPos
      (bs.length % s.cfg.rxCap) := by
  have hcfg : (s.dmaReceiveAll bs).cfg = s.cfg := s.dmaReceiveAll_cfg bs
  have hlast : (s.dmaReceiveAll bs).lastPos = s.lastPos := by rw [s.dmaReceiveAll_frame bs]
  have hpos : (s.dmaReceiveAll bs).drainPos =
      (s.lastPos + bs.length % s.cfg.rxCap) % s.cfg.rxCap := by
    rw [Nat.add_mod_mod, ← hd]
    exact h.dmaReceiveAll_dmaPos ha bs
  have hrange := State.segment_eq_ringRange (s := s.dmaReceiveAll bs) (hcfg ▸ h.lastPos)
    (hcfg ▸ Nat.mod_lt bs.length h.rxCap_pos)
  rw [hcfg, ← hpos] at hrange
  rw [State.newBytes, hlast, hrange]

/-- Settles O57: the newly arrived bytes are a range of the ring of that length. -/
theorem overrunDeliversModuloCapacity : Obligations.OverrunDeliversModuloCapacity := by
  intro s bs h hd ha
  rw [h.newBytes_dmaReceiveAll_eq_ringRange hd ha bs, Memory.ringRange_length]

end Sys2Proof.Machine
end

section
/-! Reset (spec/70_reset_and_hazards.md R340, R341), and the idle line outside Running (R351). -/

namespace Sys2Proof.Machine

variable {s : State} {tail : List Event}

/-! ### Reset -/

theorem step_of_port_reset {rem : Nat} {ring frame : List Host.Cell}
    (hport : s.port = .agent (.reset rem ring frame) :: tail) :
    step s = .next (({ s with port := tail } : State).hardReset rem ring frame) :=
  step_of_port_agent hport

/-- Settles O36: every element named is a field of the state that `State.hardReset` gives, whatever
the environment chooses for DMA_REMAINING, RXBUF and FRAME. -/
theorem resetPutsEveryElement : Obligations.ResetPutsEveryElement := by
  intro s rem ring frame tail hport
  refine ⟨_, step_of_port_reset hport, ?_⟩
  and_intros <;> rfl

/-! ### The idle line -/

/-- R37 item 4: outside Running the idle-line interrupt is disabled. -/
theorem Inv.idleIrqEn_eq_false (h : Inv s) (hmode : s.mode ≠ .running) : s.idleIrqEn = false :=
  Bool.eq_false_iff.mpr fun henabled => hmode (h.idleIrq.mp henabled)

/-- Settles O60: the idle line is pending but disabled, so it is not deliverable. -/
theorem noIdleWakeUpInFlashing : Obligations.NoIdleWakeUpInFlashing := by
  intro s h hmode
  have hdisabled : s.idleIrqEn = false := h.idleIrqEn_eq_false (by simp [hmode])
  exact State.deliver_of_not_deliverable (State.deliverable_idle_eq_false_iff.mpr (.inr hdisabled))

end Sys2Proof.Machine
end
